-- ==== Sys2Proof/Word.lean ====
section
/-! DEFINITION. The word types of the IB3 cipher core: the widths of 00_scope.md rules R8 and R9, as bit vectors. -/

namespace Sys2Proof

/-- One byte of a message, a key or an IV (R51). -/
abbrev Byte := BitVec 8

/-- A 64-bit block: a key, an IV, a chaining value or a data block (R8 `BLOCK_BITS`, `KEY_BITS`, `IV_BITS`). -/
abbrev Block := BitVec 64

/-- A Feistel half (R8 `HALF_BITS`). -/
abbrev Half := BitVec 32

/-- A subkey (R8 `SUBKEY_BITS`). -/
abbrev Subkey := BitVec 48

/-- A command word (R70, `CMD_BITS`). -/
abbrev Cmd := BitVec 80

/-- A response word (R71, `RESP_BITS`). -/
abbrev Resp := BitVec 72

end Sys2Proof
end

