-- ==== Sys2Proof/Syntax.lean ====
section
/-! DEFINITION. The ten commands of the IB3 cipher core, one constructor per row of spec/opcode_table.json (30_encoding.md rule R72), with the operands of rule R73. -/

namespace Sys2Proof

/-- A command with its operands (R72, R73). A field that must be 0 is no operand: the decoder checks it. -/
inductive Instr where
  /-- `NOP`, opcode 0x00 (R180). -/
  | nop
  /-- `LDKEY n, key`, opcode 0x01 (R112): `n` the key's length in bytes (255 = 255 or more), `key` its first 8 bytes. -/
  | ldkey (n : BitVec 8) (key : Block)
  /-- `LDIV iv`, opcode 0x02 (R162). -/
  | ldiv (iv : Block)
  /-- `START mode, len`, opcode 0x10 (R163): `mode` 0 = encrypt, 1 = decrypt, `len` the message's length in bytes. -/
  | start (mode : BitVec 8) (len : BitVec 64)
  /-- `BLK data`, opcode 0x11 (R164): the next 8 message bytes. -/
  | blk (data : Block)
  /-- `ABORT`, opcode 0x12 (R167). -/
  | abort
  /-- `RDOUT`, opcode 0x20 (R168). -/
  | rdout
  /-- `RDSTAT`, opcode 0x21 (R181). -/
  | rdstat
  /-- `RDREM`, opcode 0x22 (R182). -/
  | rdrem
  /-- `CLRERR`, opcode 0x23 (R183). -/
  | clrerr
deriving DecidableEq, Repr

end Sys2Proof
end

