-- ==== Sys2Proof/WellFormed.lean ====
section
/-! DEFINITION. Which terms of `Instr` are commands of the IB3 cipher core: the one operand with reserved values is the mode of START (30_encoding.md rules R73, R75). -/

namespace Sys2Proof

/-- A term is well formed when no operand holds a reserved value: "`mode = cmd.ARG` (must be 0 or 1)" (R73).
Every other operand takes every value of its width. -/
def Instr.wellFormed : Instr → Bool
  | .nop => true
  | .ldkey _ _ => true
  | .ldiv _ => true
  | .start mode _ => decide (mode ≤ 1#8)
  | .blk _ => true
  | .abort => true
  | .rdout => true
  | .rdstat => true
  | .rdrem => true
  | .clrerr => true

end Sys2Proof
end

