-- ==== Sys2Proof/Decode.lean ====
section
/-! DEFINITION. Decoding a command word and encoding a command (30_encoding.md rules R70, R72 to R75), and the opcode table of spec/opcode_table.json as data. -/

namespace Sys2Proof

/-! ## Fields (R70) -/

/-- `cmd.OP`, bits `[79:72]` (R70). -/
def cmdOp (c : Cmd) : BitVec 8 := c.extractLsb' 72 8

/-- `cmd.ARG`, bits `[71:64]` (R70). -/
def cmdArg (c : Cmd) : BitVec 8 := c.extractLsb' 64 8

/-- `cmd.PAYLOAD`, bits `[63:0]` (R70). -/
def cmdPayload (c : Cmd) : BitVec 64 := c.extractLsb' 0 64

/-- `OP << 72 | ARG << 64 | PAYLOAD` (R77). -/
def mkCmd (op arg : BitVec 8) (payload : BitVec 64) : Cmd := op ++ arg ++ payload

/-! ## Decoding, steps 1 and 2 of R74 -/

/-- Why a word is no command; either way it is refused with `IllegalCommand` (R75). -/
inductive DecodeError where
  /-- Step 1: the opcode is not one of the ten values of R72. -/
  | reservedOpcode
  /-- Step 2: a field that must be 0 is not 0, or `START` has `ARG > 1`. -/
  | reservedField
deriving DecidableEq, Repr

/-- What the decoder reads from a word. -/
inductive Decoded where
  | command (i : Instr)
  | illegal (e : DecodeError)
deriving DecidableEq, Repr

/-- The commands whose `ARG` and `PAYLOAD` must both be 0 (R74 step 2). -/
def decodeBare (i : Instr) (arg : BitVec 8) (payload : BitVec 64) : Decoded :=
  if arg = 0#8 ∧ payload = 0#64 then .command i else .illegal .reservedField

/-- The commands whose `ARG` must be 0 and whose payload is an operand (R74 step 2). -/
def decodePayloadOnly (i : Instr) (arg : BitVec 8) : Decoded :=
  if arg = 0#8 then .command i else .illegal .reservedField

/-- `START`: `ARG > 1` is reserved (R74 step 2, R75). -/
def decodeStart (arg : BitVec 8) (payload : BitVec 64) : Decoded :=
  if arg ≤ 1#8 then .command (.start arg payload) else .illegal .reservedField

/-- Steps 1 and 2 of R74 on the three fields. -/
def decodeFields (op arg : BitVec 8) (payload : BitVec 64) : Decoded :=
  if op = 0x00#8 then decodeBare .nop arg payload
  else if op = 0x01#8 then .command (.ldkey arg payload)
  else if op = 0x02#8 then decodePayloadOnly (.ldiv payload) arg
  else if op = 0x10#8 then decodeStart arg payload
  else if op = 0x11#8 then decodePayloadOnly (.blk payload) arg
  else if op = 0x12#8 then decodeBare .abort arg payload
  else if op = 0x20#8 then decodeBare .rdout arg payload
  else if op = 0x21#8 then decodeBare .rdstat arg payload
  else if op = 0x22#8 then decodeBare .rdrem arg payload
  else if op = 0x23#8 then decodeBare .clrerr arg payload
  else .illegal .reservedOpcode

/-- The decoder: total, "every one of the 2^80 words has exactly one outcome" (R74). -/
def decode (c : Cmd) : Decoded := decodeFields (cmdOp c) (cmdArg c) (cmdPayload c)

/-! ## Encoding (R72, R77) -/

/-- The word of a command, from the rows of R72. -/
def encode : Instr → Cmd
  | .nop => mkCmd 0x00#8 0#8 0#64
  | .ldkey n key => mkCmd 0x01#8 n key
  | .ldiv iv => mkCmd 0x02#8 0#8 iv
  | .start mode len => mkCmd 0x10#8 mode len
  | .blk data => mkCmd 0x11#8 0#8 data
  | .abort => mkCmd 0x12#8 0#8 0#64
  | .rdout => mkCmd 0x20#8 0#8 0#64
  | .rdstat => mkCmd 0x21#8 0#8 0#64
  | .rdrem => mkCmd 0x22#8 0#8 0#64
  | .clrerr => mkCmd 0x23#8 0#8 0#64

/-! ## The opcode table (spec/opcode_table.json, R75) -/

/-- A row of spec/opcode_table.json. -/
structure OpcodeRow where
  mnemonic : String
  pattern : Cmd
  mask : Cmd
deriving DecidableEq, Repr

/-- A word matches a row when `word & mask = match` (R75). -/
def OpcodeRow.accepts (r : OpcodeRow) (c : Cmd) : Bool := c &&& r.mask == r.pattern

/-- The ten rows of spec/opcode_table.json, in its order; "each row's `mask` covers the opcode and every reserved bit" (R75). -/
def opcodeTable : List OpcodeRow :=
  [ ⟨"NOP", 0x00000000000000000000#80, 0xFFFFFFFFFFFFFFFFFFFF#80⟩,
    ⟨"LDKEY", 0x01000000000000000000#80, 0xFF000000000000000000#80⟩,
    ⟨"LDIV", 0x02000000000000000000#80, 0xFFFF0000000000000000#80⟩,
    ⟨"START", 0x10000000000000000000#80, 0xFFFE0000000000000000#80⟩,
    ⟨"BLK", 0x11000000000000000000#80, 0xFFFF0000000000000000#80⟩,
    ⟨"ABORT", 0x12000000000000000000#80, 0xFFFFFFFFFFFFFFFFFFFF#80⟩,
    ⟨"RDOUT", 0x20000000000000000000#80, 0xFFFFFFFFFFFFFFFFFFFF#80⟩,
    ⟨"RDSTAT", 0x21000000000000000000#80, 0xFFFFFFFFFFFFFFFFFFFF#80⟩,
    ⟨"RDREM", 0x22000000000000000000#80, 0xFFFFFFFFFFFFFFFFFFFF#80⟩,
    ⟨"CLRERR", 0x23000000000000000000#80, 0xFFFFFFFFFFFFFFFFFFFF#80⟩ ]

/-- The mnemonic of a command, as spec/opcode_table.json spells it. -/
def Instr.mnemonic : Instr → String
  | .nop => "NOP"
  | .ldkey _ _ => "LDKEY"
  | .ldiv _ => "LDIV"
  | .start _ _ => "START"
  | .blk _ => "BLK"
  | .abort => "ABORT"
  | .rdout => "RDOUT"
  | .rdstat => "RDSTAT"
  | .rdrem => "RDREM"
  | .clrerr => "CLRERR"

/-! ## The host's view of the table -/

/-- The command word whose low `nbits` bits are `w`, numbered as spec/opcode_table.json numbers them (bit 0 the least
significant); every bit from `nbits` on is 0. The command word is ONE word of 80 bits (R70), so no byte order enters. -/
def tableWord (nbits w : Nat) : Cmd := BitVec.ofNat 80 (w % 2 ^ nbits)

/-- The command this model's decoder reads from a table row's word. -/
def decodeTableWord (nbits w : Nat) : Option Instr :=
  match decode (tableWord nbits w) with
  | .command i => some i
  | .illegal _ => none

end Sys2Proof
end

