-- ==== Sys2Proof/Config.lean ====
section
/-! DEFINITION. What an implementation of the IB3 cipher core fixes (00_scope.md rules R8, R9) and the one parameter the spec leaves open (P1). No free value is needed: the spec states every result. -/

namespace Sys2Proof

/-- The letter case of hexadecimal text, the open parameter `HEXCASE` (R9, R207, P1 of 92_eei_decisions.md).
It is an argument of the host-side `HEX` alone. -/
inductive HexCase where
  | upper
  | lower
deriving DecidableEq, Repr

namespace Config

/-- The number of rounds and of subkeys (R8 `ROUNDS`). -/
abbrev rounds : Nat := 16

/-- The number of S-boxes (R8 `SBOXES`). -/
abbrev sboxes : Nat := 8

/-- The width of the key after the key permutation (R8 `EFF_KEY_BITS`). -/
abbrev effKeyBits : Nat := 56

/-- The bytes of a block (R8: 64 bits). -/
abbrev blockBytes : Nat := 8

/-- The longest key length the `LDKEY` length argument expresses; it stands for itself and every greater length (R112). -/
abbrev maxKeyLen : Nat := 255

/-- One more than the greatest message length (R9 `LEN_BITS` = 64). -/
abbrev lenBound : Nat := 2 ^ 64

end Config

end Sys2Proof
end

