-- ==== Sys2Proof/Machine/Bits.lean ====
section
/-! DEFINITION. Bit vectors and bytes: 00_scope.md rules R10, R11, R13 and the BitCodec of 20_memory.md rules R51 to R53. A bit vector of width n is a `BitVec n` whose index 0 is its most significant bit (R101), read by `getMsbD`, so a vector and its numeral are one value (log 10). -/

namespace Sys2Proof.Machine

/-- The numeral of a sequence of bits, the first bit the most significant (R11). -/
def numBits (bs : List Bool) : Nat := bs.foldl (fun a b => 2 * a + b.toNat) 0

/-- The bit vector of width `n` with these bits, index 0 first (R10). -/
def ofBits (n : Nat) (bs : List Bool) : BitVec n := BitVec.ofNat n (numBits bs)

/-- The bits of a vector, index 0 first (R10). -/
def toBits {n : Nat} (v : BitVec n) : List Bool := (List.range n).map v.getMsbD

/-- `v{i .. i+len-1}` (R10). -/
def slice {n : Nat} (v : BitVec n) (i len : Nat) : BitVec len := v.extractLsb' (n - i - len) len

/-- `rotl(v, s)`: each bit moves `s` places toward index 0 (R13). -/
def rotl {n : Nat} (v : BitVec n) (s : Nat) : BitVec n := v.rotateLeft s

/-- `byte_j(v)` of a block, byte 0 first (R13). -/
def byteAt (v : Block) (j : Nat) : Byte := slice v (8 * j) 8

/-- `keep(v, n)`: the first `n` bytes kept, the rest forced to zero (R13). -/
def keep (v : Block) (n : Nat) : Block := (v >>> (64 - 8 * n)) <<< (64 - 8 * n)

/-- `encodeBits` (R51): each byte's 8 bits, most significant first, in input order. -/
def encodeBits (bytes : List Byte) : List Bool := bytes.flatMap toBits

/-- `bytes8(F)`: the 8 bytes of a block, `[63:56]` first (R52, R200). -/
def bytes8 (v : Block) : List Byte := (List.range 8).map (byteAt v)

/-- `decodeBits` (R53) on the only groups the engine has, those of exactly 64 bits, so without its failure case (R231). -/
def decodeBits (groups : List Block) : List Byte := groups.flatMap bytes8

/-- `be64(b)`: the field holding at most 8 bytes from `[63:56]` downward, the unused low-order bytes zero (R52, R200). -/
def be64 (bytes : List Byte) : Block := ofBits 64 ((encodeBits bytes ++ List.replicate 64 false).take 64)

end Sys2Proof.Machine
end

