-- ==== Sys2Proof/Machine/Permutation.lean ====
section
/-! DEFINITION. The permutation network: `permute` and its six constant tables (40_permutation_network.md rules R90 to R98). A table carries the proof of its well-formedness (R91, R99 (a), (b)), so `IndexOutOfRange` has no run-time arm (R232). -/

namespace Sys2Proof.Machine

/-- A permutation table from `inW` to `outW` bits: 1-based input positions in output order (R90, R92), all of them in range (R91). -/
structure PermTable (inW outW : Nat) where
  entries : List Nat
  length_eq : entries.length = outW
  in_range : ∀ p ∈ entries, 1 ≤ p ∧ p ≤ inW

/-- `permute(input, table)`: "`output[i] = input[table[i] - 1]`" (R90). -/
def permute {inW outW : Nat} (v : BitVec inW) (t : PermTable inW outW) : BitVec outW :=
  ofBits outW (t.entries.map fun p => v.getMsbD (p - 1))

/-- `IP`, the initial permutation (R93). -/
def tableIP : PermTable 64 64 where
  entries := [
    58, 50, 42, 34, 26, 18, 10,  2,
    60, 52, 44, 36, 28, 20, 12,  4,
    62, 54, 46, 38, 30, 22, 14,  6,
    64, 56, 48, 40, 32, 24, 16,  8,
    57, 49, 41, 33, 25, 17,  9,  1,
    59, 51, 43, 35, 27, 19, 11,  3,
    61, 53, 45, 37, 29, 21, 13,  5,
    63, 55, 47, 39, 31, 23, 15,  7]
  length_eq := by decide
  in_range := by decide

/-- `FP`, the final permutation (R94). -/
def tableFP : PermTable 64 64 where
  entries := [
    40,  8, 48, 16, 56, 24, 64, 32,
    39,  7, 47, 15, 55, 23, 63, 31,
    38,  6, 46, 14, 54, 22, 62, 30,
    37,  5, 45, 13, 53, 21, 61, 29,
    36,  4, 44, 12, 52, 20, 60, 28,
    35,  3, 43, 11, 51, 19, 59, 27,
    34,  2, 42, 10, 50, 18, 58, 26,
    33,  1, 41,  9, 49, 17, 57, 25]
  length_eq := by decide
  in_range := by decide

/-- `PC1`, the key permutation (R95). -/
def tablePC1 : PermTable 64 56 where
  entries := [
    57, 49, 41, 33, 25, 17,  9,
     1, 58, 50, 42, 34, 26, 18,
    10,  2, 59, 51, 43, 35, 27,
    19, 11,  3, 60, 52, 44, 36,
    63, 55, 47, 39, 31, 23, 15,
     7, 62, 54, 46, 38, 30, 22,
    14,  6, 61, 53, 45, 37, 29,
    21, 13,  5, 28, 20, 12,  4]
  length_eq := by decide
  in_range := by decide

/-- `PC2`, the key-compression permutation (R96). -/
def tablePC2 : PermTable 56 48 where
  entries := [
    14, 17, 11, 24,  1,  5,
     3, 28, 15,  6, 21, 10,
    23, 19, 12,  4, 26,  8,
    16,  7, 27, 20, 13,  2,
    41, 52, 31, 37, 47, 55,
    30, 40, 51, 45, 33, 48,
    44, 49, 39, 56, 34, 53,
    46, 42, 50, 36, 29, 32]
  length_eq := by decide
  in_range := by decide

/-- `E`, the extension permutation (R97). -/
def tableE : PermTable 32 48 where
  entries := [
    32,  1,  2,  3,  4,  5,
     4,  5,  6,  7,  8,  9,
     8,  9, 10, 11, 12, 13,
    12, 13, 14, 15, 16, 17,
    16, 17, 18, 19, 20, 21,
    20, 21, 22, 23, 24, 25,
    24, 25, 26, 27, 28, 29,
    28, 29, 30, 31, 32,  1]
  length_eq := by decide
  in_range := by decide

/-- `P`, the P-box permutation (R98). -/
def tableP : PermTable 32 32 where
  entries := [
    16,  7, 20, 21, 29, 12, 28, 17,
     1, 15, 23, 26,  5, 18, 31, 10,
     2,  8, 24, 14, 32, 27,  3,  9,
    19, 13, 30,  6, 22, 11,  4, 25]
  length_eq := by decide
  in_range := by decide

end Sys2Proof.Machine
end

