-- ==== Sys2Proof/Machine/KeySchedule.lean ====
section
/-! DEFINITION. The key schedule: key normalisation and the sixteen subkeys (41_key_schedule.md rules R110, R113 to R116, R119). Pure functions of the key (R118). -/

namespace Sys2Proof.Machine

/-- `normKey(key)`: the key's bits, zero-padded on the right if short, only the first 64 used if long (R110). -/
def normKey (key : List Byte) : Block := ofBits 64 ((encodeBits key ++ List.replicate 64 false).take 64)

/-- `SHIFT[0..15]`, the left rotation of each round (R114). -/
def shiftList : List Nat := [1, 1, 2, 2, 2, 2, 2, 2, 1, 2, 2, 2, 2, 2, 2, 1]

/-- `CUM[0..15]`, the cumulative rotations (R114). -/
def cumList : List Nat := [1, 2, 4, 6, 8, 10, 12, 14, 15, 17, 19, 21, 23, 25, 27, 28]

/-- `SHIFT[i]` (R114). -/
def shiftAt (i : Fin 16) : Nat := shiftList.getD i 0

/-- `CUM[i]` (R114). -/
def cumAt (i : Fin 16) : Nat := cumList.getD i 0

/-- `CD = permute(K, PC1)`, 56 bits (R113). -/
def keyHalves (K : Block) : BitVec 56 := permute K tablePC1

/-- `C0`, the first 28 bits of `CD` (R113). -/
def halfC0 (K : Block) : BitVec 28 := slice (keyHalves K) 0 28

/-- `D0`, the last 28 bits of `CD` (R113). -/
def halfD0 (K : Block) : BitVec 28 := slice (keyHalves K) 28 28

/-- `permute(C ‖ D, PC2)` (R115). -/
def compressHalves (C D : BitVec 28) : Subkey := permute (C ++ D : BitVec 56) tablePC2

/-- `subkey(K, i)`, the closed form (R115).
Irreducible, so that no unification runs the key schedule; its equation unfolds it. -/
@[irreducible] def subkey (K : Block) (i : Fin 16) : Subkey := compressHalves (rotl (halfC0 K) (cumAt i)) (rotl (halfD0 K) (cumAt i))

/-- `deriveRoundKeys(key)` (R116). -/
def deriveRoundKeys (key : List Byte) : List Subkey := (List.finRange 16).map (subkey (normKey key))

/-- One round of the iterative key schedule: both halves rotated by a further `SHIFT[i]` (R119). -/
def rotateHalves (CD : BitVec 28 × BitVec 28) (shift : Nat) : BitVec 28 × BitVec 28 := (rotl CD.1 shift, rotl CD.2 shift)

/-- The running halves `C_n, D_n` after `n` rounds, `C_0 = C0`, `D_0 = D0` (R119). -/
def runningHalves (K : Block) (n : Nat) : BitVec 28 × BitVec 28 :=
  (shiftList.take n).foldl rotateHalves (halfC0 K, halfD0 K)

/-- `permute(C_(i+1) ‖ D_(i+1), PC2)`, the subkey from the running halves (R119). -/
def subkeyIterative (K : Block) (i : Fin 16) : Subkey :=
  compressHalves (runningHalves K (i + 1)).1 (runningHalves K (i + 1)).2

end Sys2Proof.Machine
end

