-- ==== Sys2Proof/Machine/Sbox.lean ====
section
/-! DEFINITION. The S-box substitution stage: `substitute` and its eight constant tables (42_sbox_stage.md rules R130 to R133). A table carries the proof of its shape (R135), so a lookup can never leave it and raises nothing. -/

namespace Sys2Proof.Machine

/-- An S-box: 4 rows of 16 columns with values in 0..15 (R133, R135). -/
structure SBox where
  rows : List (List Nat)
  four_rows : rows.length = 4
  sixteen_columns : ∀ r ∈ rows, r.length = 16
  four_bit_values : ∀ r ∈ rows, ∀ x ∈ r, x ≤ 15

/-- `sbox[row][col]` (R132). -/
def SBox.value (b : SBox) (row col : Nat) : Nat := (b.rows.getD row []).getD col 0

/-- `SBOX[0]` (R133). -/
def sbox0 : SBox where
  rows := [
    [14,  4, 13,  1,  2, 15, 11,  8,  3, 10,  6, 12,  5,  9,  0,  7],
    [ 0, 15,  7,  4, 14,  2, 13,  1, 10,  6, 12, 11,  9,  5,  3,  8],
    [ 4,  1, 14,  8, 13,  6,  2, 11, 15, 12,  9,  7,  3, 10,  5,  0],
    [15, 12,  8,  2,  4,  9,  1,  7,  5, 11,  3, 14, 10,  0,  6, 13]]
  four_rows := by decide
  sixteen_columns := by decide
  four_bit_values := by decide

/-- `SBOX[1]` (R133). -/
def sbox1 : SBox where
  rows := [
    [15,  1,  8, 14,  6, 11,  3,  4,  9,  7,  2, 13, 12,  0,  5, 10],
    [ 3, 13,  4,  7, 15,  2,  8, 14, 12,  0,  1, 10,  6,  9, 11,  5],
    [ 0, 14,  7, 11, 10,  4, 13,  1,  5,  8, 12,  6,  9,  3,  2, 15],
    [13,  8, 10,  1,  3, 15,  4,  2, 11,  6,  7, 12,  0,  5, 14,  9]]
  four_rows := by decide
  sixteen_columns := by decide
  four_bit_values := by decide

/-- `SBOX[2]` (R133). -/
def sbox2 : SBox where
  rows := [
    [10,  0,  9, 14,  6,  3, 15,  5,  1, 13, 12,  7, 11,  4,  2,  8],
    [13,  7,  0,  9,  3,  4,  6, 10,  2,  8,  5, 14, 12, 11, 15,  1],
    [13,  6,  4,  9,  8, 15,  3,  0, 11,  1,  2, 12,  5, 10, 14,  7],
    [ 1, 10, 13,  0,  6,  9,  8,  7,  4, 15, 14,  3, 11,  5,  2, 12]]
  four_rows := by decide
  sixteen_columns := by decide
  four_bit_values := by decide

/-- `SBOX[3]` (R133). -/
def sbox3 : SBox where
  rows := [
    [ 7, 13, 14,  3,  0,  6,  9, 10,  1,  2,  8,  5, 11, 12,  4, 15],
    [13,  8, 11,  5,  6, 15,  0,  3,  4,  7,  2, 12,  1, 10, 14,  9],
    [10,  6,  9,  0, 12, 11,  7, 13, 15,  1,  3, 14,  5,  2,  8,  4],
    [ 3, 15,  0,  6, 10,  1, 13,  8,  9,  4,  5, 11, 12,  7,  2, 14]]
  four_rows := by decide
  sixteen_columns := by decide
  four_bit_values := by decide

/-- `SBOX[4]` (R133). -/
def sbox4 : SBox where
  rows := [
    [ 2, 12,  4,  1,  7, 10, 11,  6,  8,  5,  3, 15, 13,  0, 14,  9],
    [14, 11,  2, 12,  4,  7, 13,  1,  5,  0, 15, 10,  3,  9,  8,  6],
    [ 4,  2,  1, 11, 10, 13,  7,  8, 15,  9, 12,  5,  6,  3,  0, 14],
    [11,  8, 12,  7,  1, 14,  2, 13,  6, 15,  0,  9, 10,  4,  5,  3]]
  four_rows := by decide
  sixteen_columns := by decide
  four_bit_values := by decide

/-- `SBOX[5]` (R133). -/
def sbox5 : SBox where
  rows := [
    [12,  1, 10, 15,  9,  2,  6,  8,  0, 13,  3,  4, 14,  7,  5, 11],
    [10, 15,  4,  2,  7, 12,  9,  5,  6,  1, 13, 14,  0, 11,  3,  8],
    [ 9, 14, 15,  5,  2,  8, 12,  3,  7,  0,  4, 10,  1, 13, 11,  6],
    [ 4,  3,  2, 12,  9,  5, 15, 10, 11, 14,  1,  7,  6,  0,  8, 13]]
  four_rows := by decide
  sixteen_columns := by decide
  four_bit_values := by decide

/-- `SBOX[6]` (R133). -/
def sbox6 : SBox where
  rows := [
    [ 4, 11,  2, 14, 15,  0,  8, 13,  3, 12,  9,  7,  5, 10,  6,  1],
    [13,  0, 11,  7,  4,  9,  1, 10, 14,  3,  5, 12,  2, 15,  8,  6],
    [ 1,  4, 11, 13, 12,  3,  7, 14, 10, 15,  6,  8,  0,  5,  9,  2],
    [ 6, 11, 13,  8,  1,  4, 10,  7,  9,  5,  0, 15, 14,  2,  3, 12]]
  four_rows := by decide
  sixteen_columns := by decide
  four_bit_values := by decide

/-- `SBOX[7]` (R133). -/
def sbox7 : SBox where
  rows := [
    [13,  2,  8,  4,  6, 15, 11,  1, 10,  9,  3, 14,  5,  0, 12,  7],
    [ 1, 15, 13,  8, 10,  3,  7,  4, 12,  5,  6, 11,  0, 14,  9,  2],
    [ 7, 11,  4,  1,  9, 12, 14,  2,  0,  6, 10, 13, 15,  3,  5,  8],
    [ 2,  1, 14,  7,  4, 10,  8, 13, 15, 12,  9,  0,  3,  5,  6, 11]]
  four_rows := by decide
  sixteen_columns := by decide
  four_bit_values := by decide

/-- The eight S-boxes, numbered 0..7 (R130, R133). -/
def sboxOf : Fin 8 → SBox
  | 0 => sbox0
  | 1 => sbox1
  | 2 => sbox2
  | 3 => sbox3
  | 4 => sbox4
  | 5 => sbox5
  | 6 => sbox6
  | 7 => sbox7

/-- Group `g` of the 48-bit input, `A{6g .. 6g+5}` (R130). -/
def sboxGroup (A : Subkey) (g : Fin 8) : BitVec 6 := slice A (6 * g) 6

/-- `row = 2*x[0] + x[5]` (R131). -/
def sboxRow (x : BitVec 6) : Nat := 2 * (x.getMsbD 0).toNat + (x.getMsbD 5).toNat

/-- `col = 8*x[1] + 4*x[2] + 2*x[3] + x[4]` (R131). -/
def sboxCol (x : BitVec 6) : Nat :=
  8 * (x.getMsbD 1).toNat + 4 * (x.getMsbD 2).toNat + 2 * (x.getMsbD 3).toNat + (x.getMsbD 4).toNat

/-- `y_g = bits_4(SBOX[g][row][col])` (R132). -/
def sboxOut (A : Subkey) (g : Fin 8) : BitVec 4 :=
  BitVec.ofNat 4 ((sboxOf g).value (sboxRow (sboxGroup A g)) (sboxCol (sboxGroup A g)))

/-- `substitute(A) = y_0 ‖ y_1 ‖ ... ‖ y_7` (R132). -/
def substitute (A : Subkey) : Half :=
  sboxOut A 0 ++ sboxOut A 1 ++ sboxOut A 2 ++ sboxOut A 3 ++ sboxOut A 4 ++ sboxOut A 5 ++ sboxOut A 6 ++ sboxOut A 7

end Sys2Proof.Machine
end

