-- ==== Sys2Proof/Machine/Feistel.lean ====
section
/-! DEFINITION. The Feistel round engine and the block functions (43_feistel_round.md rules R140 to R147), and the same network as micro-steps over the hidden registers of 10_state.md rule R34 (R145). -/

namespace Sys2Proof.Machine

/-- Sixteen subkeys, indexed 0..15 (R27, R116). An argument of pure functions, never a field of State. -/
abbrev RoundKeys := Fin 16 → Subkey

/-- The round function (R140). -/
def roundFunction (right : Half) (k : Subkey) : Half := permute (substitute (permute right tableE ^^^ k)) tableP

/-- `(L, R) <- (R, L ^ f)`, both from the old pair (R141). -/
def feistelRound (LR : Half × Half) (k : Subkey) : Half × Half := (LR.2, LR.1 ^^^ roundFunction LR.2 k)

/-- The index of the subkey that round `i` uses: `decrypting ? 15-i : i` (R141, R142). -/
def roundKeyIndex (decrypting : Bool) (i : Fin 16) : Fin 16 := if decrypting then 15 - i else i

/-- The subkeys in the order the sixteen rounds use them (R142). -/
def keyOrder (rk : RoundKeys) (decrypting : Bool) : List Subkey :=
  (List.finRange 16).map fun i => rk (roundKeyIndex decrypting i)

/-- The halves of a block, left half first (R141). -/
def splitBlock (B : Block) : Half × Half := (slice B 0 32, slice B 32 32)

/-- `R ‖ L`: the final swap (R143). -/
def joinSwapped (LR : Half × Half) : Block := LR.2 ++ LR.1

/-- The 16-round network (R141). -/
def feistelNetwork (B : Block) (rk : RoundKeys) (decrypting : Bool) : Block :=
  joinSwapped ((keyOrder rk decrypting).foldl feistelRound (splitBlock B))

/-- The per-block encryption without the chaining XOR (R146).
Irreducible, so that no unification runs the cipher; its equation unfolds it. -/
@[irreducible] def blockEnc (X : Block) (rk : RoundKeys) : Block := permute (feistelNetwork (permute X tableIP) rk false) tableFP

/-- The per-block decryption without the chaining XOR (R147).
Irreducible, as `blockEnc`. -/
@[irreducible] def blockDec (C : Block) (rk : RoundKeys) : Block := permute (feistelNetwork (permute C tableIP) rk true) tableFP

/-! ## The round engine, micro-step by micro-step (R145) -/

/-- The hidden registers of a round engine (R34): `L`, `R`, and `RND`, the number of rounds done. They live inside one `BLK`
and are no part of State (R20, R34; log 6). -/
structure RoundEngine where
  L : Half
  R : Half
  rnd : Nat
deriving DecidableEq, Repr

/-- `load` (R145). -/
def engineLoad (B : Block) : RoundEngine := ⟨slice B 0 32, slice B 32 32, 0⟩

/-- `round`, "while RND <= 15"; after sixteen rounds it changes nothing (R145). -/
def engineRound (rk : RoundKeys) (decrypting : Bool) (e : RoundEngine) : RoundEngine :=
  if h : e.rnd < 16 then
    ⟨e.R, e.L ^^^ roundFunction e.R (rk (roundKeyIndex decrypting ⟨e.rnd, h⟩)), e.rnd + 1⟩
  else e

/-- `unload`: `R ‖ L` (R145). -/
def engineUnload (e : RoundEngine) : Block := e.R ++ e.L

/-- Load, sixteen rounds, unload (R145). -/
def engineRun (B : Block) (rk : RoundKeys) (decrypting : Bool) : Block :=
  engineUnload ((engineRound rk decrypting)^[16] (engineLoad B))

end Sys2Proof.Machine
end

