-- ==== Sys2Proof/Machine/State.lean ====
section
/-! DEFINITION. The state of the IB3 cipher core: the ten registers of 10_state.md rule R20, the response port, and the host's coming moves; the machine after reset (R40); why a step can stop. -/

namespace Sys2Proof.Machine

/-- The sequencer state `STATE` (R29): `IDLE` no message open, `ENC` and `DEC` a message open with at least one block due.
The value 3 "is never taken", so the type has no name for it (U14 of 93_implementation_defined.md). -/
inductive Seq where
  | idle
  | enc
  | dec
deriving DecidableEq, Repr

/-- The error kinds of 60_exceptions.md rule R221. The last two of the source's own kinds are numbered and never raised (R231, R232). -/
inductive Exc where
  /-- Code 1: reserved opcode, or a reserved field not zero (R223). -/
  | illegalCommand
  /-- Code 2: a command not legal in the current `STATE` (R224). -/
  | protocolError
  /-- Code 3: a key of length 0, or no key loaded (R228). -/
  | invalidKeyMaterial
  /-- Code 4: no IV loaded (R229). -/
  | missingIv
  /-- Code 5: a ciphertext length that is no multiple of 8 (R230). -/
  | malformedCiphertextLength
  /-- Code 6, never raised (R231). -/
  | malformedBitLength
  /-- Code 7, never raised (R232). -/
  | indexOutOfRange
  /-- Code 8: `RDOUT` with `OVALID = 0` (R233). -/
  | outputNotValid
deriving DecidableEq, Repr

/-- A move of the host (R5): a command word at the command port, or the reset line (R260). -/
inductive HostEvent where
  | command (word : Cmd)
  | reset
deriving DecidableEq, Repr

/-- Why the machine stops. A refused command is NOT a fault: it is a next state (R225). -/
inductive Fault where
  /-- Raised by `step` alone, when the host has presented nothing: there is no command to execute and so no step
  (R4, R268). Safe: the machine does nothing where nothing is asked of it. Log 1. -/
  | noCommand
deriving DecidableEq, Repr

/-- Why an instruction has no meaning. -/
inductive Refusal where
  /-- Raised by an arm of `exec` whose instruction has no meaning yet; no arm of this model raises it. Safe. -/
  | notModelled (mnemonic : String)
deriving DecidableEq, Repr

/-- The state of the engine (R20), its response port (R71) and the host's coming moves (R5).
`resp` and `script` are the model's own fields beside the ten registers (log 1, log 2). -/
structure State where
  /-- `KEY`, 64 bits: the normalised key (R21). -/
  key : Block
  /-- `KVALID`, 1 bit: `KEY` holds a value (R22). -/
  kvalid : Bool
  /-- `IV`, 64 bits: the initialization vector (R23). -/
  iv : Block
  /-- `IVVALID`, 1 bit: `IV` holds a value (R24). -/
  ivvalid : Bool
  /-- `PREV`, 64 bits: the chaining value (R25). -/
  prev : Block
  /-- `DOUT`, 64 bits: the last output block (R26). -/
  dout : Block
  /-- `OVALID`, 1 bit: `DOUT` holds a value (R26). -/
  ovalid : Bool
  /-- `STATE`, 2 bits: the sequencer state (R29). -/
  seq : Seq
  /-- `REM`, 64 bits, unsigned: message bytes still to be processed (R30). -/
  rem : BitVec 64
  /-- `ERR`, 4 bits: the code of the most recent refused command, `none` for 0 (R31). -/
  err : Option Exc
  /-- The response port: the answer to the most recent command, none since reset (R50 (b), R71, R260). -/
  resp : Option Resp
  /-- The host's coming moves, the next one first (R5, R50 (a) and (c)). -/
  script : List HostEvent
deriving DecidableEq, Repr

/-- The machine right after reset, nothing presented (R40). The spec gives `KEY`, `IV`, `PREV` and `DOUT` "unspecified bits";
the model names 0 for them (DESIGN CHOICE, log 3). -/
def State.reset : State where
  key := 0
  kvalid := false
  iv := 0
  ivvalid := false
  prev := 0
  dout := 0
  ovalid := false
  seq := .idle
  rem := 0
  err := none
  resp := none
  script := []

end Sys2Proof.Machine
end

