-- ==== Sys2Proof/Machine/Operands.lean ====
section
/-! DEFINITION. The operands of the commands as the engine uses them (30_encoding.md rule R73; 44_cbc_commands.md rules R163, R164) and the derived subkeys (10_state.md rule R27). -/

namespace Sys2Proof.Machine

/-- The key `LDKEY` loads: `keep(bits_64(cmd.PAYLOAD), min(n, 8))` (R112). -/
def keyOperand (n : BitVec 8) (payload : Block) : Block := keep payload (min n.toNat Config.blockBytes)

/-- `RK[0..15]`, "not independent state": the subkeys of `KEY` (R27). -/
def State.rk (s : State) : RoundKeys := subkey s.key

/-- `LEN mod 8 != 0`, the length `START` refuses for decryption (R163). -/
def lengthMalformed (len : BitVec 64) : Bool := decide (len.toNat % Config.blockBytes ≠ 0)

/-- `min(REM, 8)`: the message bytes of the next block of an encryption (R164). -/
def encBytes (s : State) : Nat := min s.rem.toNat Config.blockBytes

/-- The plaintext block of an encrypting `BLK`, zero-padded after the message's last byte: `keep(d, min(REM, 8))` (R164). -/
def plainOperand (data : Block) (s : State) : Block := keep data (encBytes s)

/-- The output of an encrypting `BLK`: `blockEnc(P ^ PREV, RK)` (R164). -/
def encOutput (data : Block) (s : State) : Block := blockEnc (plainOperand data s ^^^ s.prev) s.rk

/-- The output of a decrypting `BLK`: `blockDec(C, RK) ^ PREV` with the old `PREV` (R164, R169). -/
def decOutput (data : Block) (s : State) : Block := blockDec data s.rk ^^^ s.prev

/-- `STATE` after a successful `START` (R163): a message of length 0 is complete at once. -/
def openedSeq (mode : BitVec 8) (len : BitVec 64) : Seq :=
  if len = 0#64 then .idle else if mode = 0#8 then .enc else .dec

end Sys2Proof.Machine
end

