-- ==== Sys2Proof/Machine/Flags.lean ====
section
/-! DEFINITION. The flags and codes the host can see: the codes of `STATE` and `ERR` (10_state.md rules R29, R31; 60_exceptions.md rule R221), the result codes (30_encoding.md rule R79) and the `STATUS` word (R28, R181). The engine has no arithmetic condition code (R32). -/

namespace Sys2Proof.Machine

/-- The code of `STATE`, `STATUS[1:0]` (R28, R29). -/
def seqCode : Seq → BitVec 2
  | .idle => 0
  | .enc => 1
  | .dec => 2

/-- The error codes (R221). -/
def excCode : Exc → BitVec 4
  | .illegalCommand => 1
  | .protocolError => 2
  | .invalidKeyMaterial => 3
  | .missingIv => 4
  | .malformedCiphertextLength => 5
  | .malformedBitLength => 6
  | .indexOutOfRange => 7
  | .outputNotValid => 8

/-- The content of `ERR`: 0 for none (R31). -/
def errCode : Option Exc → BitVec 4
  | none => 0
  | some e => excCode e

/-- `RCODE` `OK` (R79). -/
def rcodeOk : BitVec 8 := 0x00

/-- `RCODE` `OKDATA` (R79). -/
def rcodeOkData : BitVec 8 := 0x01

/-- `RCODE` of an error, `0x80 | code` (R79, R221). -/
def rcodeError (e : Exc) : BitVec 8 := 0x80 ||| (excCode e).setWidth 8

/-- A response word, `RCODE[71:64] RDATA[63:0]` (R71). -/
def mkResp (rcode : BitVec 8) (rdata : BitVec 64) : Resp := rcode ++ rdata

/-- `RCODE` of a response word (R71). -/
def respRcode (r : Resp) : BitVec 8 := r.extractLsb' 64 8

/-- `RDATA` of a response word (R71). -/
def respRdata (r : Resp) : BitVec 64 := r.extractLsb' 0 64

/-- A one-bit flag in a 64-bit word. -/
def flagBit (b : Bool) : BitVec 64 := if b then 1 else 0

/-- `STATE | KVALID << 2 | IVVALID << 3 | OVALID << 4 | ERR << 8` (R181, R28). -/
def packStatus (seq : Seq) (kvalid ivvalid ovalid : Bool) (err : Option Exc) : BitVec 64 :=
  (seqCode seq).setWidth 64 ||| flagBit kvalid <<< 2 ||| flagBit ivvalid <<< 3 ||| flagBit ovalid <<< 4
    ||| (errCode err).setWidth 64 <<< 8

/-- `STATUS`, assembled from the registers at the moment `RDSTAT` executes (R28). -/
def statusWord (s : State) : BitVec 64 := packStatus s.seq s.kvalid s.ivvalid s.ovalid s.err

end Sys2Proof.Machine
end

