-- ==== Sys2Proof/Machine/Ops.lean ====
section
/-! DEFINITION. The named operations on the registers and ports: answering a command, taking an exception (60_exceptions.md rule R225), and each command's register writes (10_state.md rule R41). -/

namespace Sys2Proof.Machine

/-! ## Answering -/

/-- `respond(rcode, rdata)` (R14): the response word of the command. -/
def State.respond (rcode : BitVec 8) (rdata : BitVec 64) (s : State) : State := { s with resp := some (mkResp rcode rdata) }

/-- `respond(OK, 0)` (R79). -/
def State.respondOk (s : State) : State := s.respond rcodeOk 0

/-- `respond(OKDATA, rdata)` (R79). -/
def State.respondData (rdata : BitVec 64) (s : State) : State := s.respond rcodeOkData rdata

/-! ## Exceptions -/

/-- `raise X`: `ERR <- code(X)`, no other register is written, `respond(0x80 | code(X), 0)` (R225). Nothing is saved and
there is no handler. -/
def State.raise (e : Exc) (s : State) : State := { s with err := some e, resp := some (mkResp (rcodeError e) 0) }

/-- The clearing of the error record. "There is nothing to return from and no return command" (R226): what an error leaves
is `ERR`, which `CLRERR` clears (R183). -/
def State.clearErr (s : State) : State := { s with err := none }

/-! ## Register writes of the commands (R41) -/

/-- `KEY <- k; KVALID <- 1` (R112). -/
def State.loadKey (k : Block) (s : State) : State := { s with key := k, kvalid := true }

/-- `IV <- v; IVVALID <- 1` (R162). -/
def State.loadIv (v : Block) (s : State) : State := { s with iv := v, ivvalid := true }

/-- The writes of `START`: `PREV <- IV; REM <- LEN; OVALID <- 0; STATE <- q` (R163). -/
def State.openMessage (q : Seq) (len : BitVec 64) (s : State) : State :=
  { s with prev := s.iv, rem := len, ovalid := false, seq := q }

/-- The writes of `BLK` that has produced `out`, hands `chain` on and consumes `n` message bytes: `DOUT <- out; PREV <- chain;
OVALID <- 1; REM <- r; if r = 0: STATE <- IDLE`, with `r = REM - n` from the old `REM` (R164). The difference is of natural
numbers and "r >= 0 always" in the states of R37 (log 5). -/
def State.chainStep (out chain : Block) (n : Nat) (s : State) : State :=
  { s with
    dout := out
    prev := chain
    ovalid := true
    rem := BitVec.ofNat 64 (s.rem.toNat - n)
    seq := if s.rem.toNat - n = 0 then .idle else s.seq }

/-- The writes of `ABORT`: `STATE <- IDLE; REM <- 0; OVALID <- 0` (R167). -/
def State.dropMessage (s : State) : State := { s with seq := .idle, rem := 0, ovalid := false }

/-! ## The host's moves (R5, R260) -/

/-- The host presents a move before all the moves it already has (log 1). -/
def State.present (ev : HostEvent) (s : State) : State := { s with script := ev :: s.script }

/-- The host's coming moves replaced. -/
def State.setScript (rest : List HostEvent) (s : State) : State := { s with script := rest }

/-- The next move of the host and the state without it; none when the host has presented nothing. -/
def State.fetch (s : State) : Option (HostEvent × State) :=
  match s.script with
  | [] => none
  | ev :: rest => some (ev, s.setScript rest)

/-- The reset event: every register as R40 says, no response; the host's coming moves stay (R260). -/
def State.resetEvent (s : State) : State := State.reset.setScript s.script

end Sys2Proof.Machine
end

