-- ==== Sys2Proof/Machine/CbcCommands.lean ====
section
/-! DEFINITION. The meanings of `LDIV`, `START`, `BLK`, `ABORT` and `RDOUT`: the CBC mode state machine (44_cbc_commands.md rules R160 to R168). -/

namespace Sys2Proof.Machine

/-- `LDIV iv` (R162). -/
def execLdiv (iv : Block) (s : State) : Host.Outcome State Fault Refusal :=
  if s.seq ≠ .idle then .next (s.raise .protocolError)
  else .next (s.loadIv iv).respondOk

/-- `START mode, len` (R163), its checks in the rule's order; `mode > 1` never reaches it from the decoder. -/
def execStart (mode : BitVec 8) (len : BitVec 64) (s : State) : Host.Outcome State Fault Refusal :=
  if 1#8 < mode then .next (s.raise .illegalCommand)
  else if s.seq ≠ .idle then .next (s.raise .protocolError)
  else if s.kvalid = false then .next (s.raise .invalidKeyMaterial)
  else if s.ivvalid = false then .next (s.raise .missingIv)
  else if mode = 1#8 ∧ lengthMalformed len = true then .next (s.raise .malformedCiphertextLength)
  else .next (s.openMessage (openedSeq mode len) len).respondOk

/-- `BLK data` (R164): one step of the encrypting or of the decrypting chain. -/
def execBlk (data : Block) (s : State) : Host.Outcome State Fault Refusal :=
  match s.seq with
  | .idle => .next (s.raise .protocolError)
  | .enc => .next ((s.chainStep (encOutput data s) (encOutput data s) (encBytes s)).respondData (encOutput data s))
  | .dec => .next ((s.chainStep (decOutput data s) data Config.blockBytes).respondData (decOutput data s))

/-- `ABORT` (R167). -/
def execAbort (s : State) : Host.Outcome State Fault Refusal := .next s.dropMessage.respondOk

/-- `RDOUT` (R168). -/
def execRdout (s : State) : Host.Outcome State Fault Refusal :=
  if s.ovalid = false then .next (s.raise .outputNotValid)
  else .next (s.respondData s.dout)

end Sys2Proof.Machine
end

