-- ==== Sys2Proof/Machine/KeyCommands.lean ====
section
/-! DEFINITION. The meaning of `LDKEY` (41_key_schedule.md rule R112). -/

namespace Sys2Proof.Machine

/-- `LDKEY n, key` (R112): steps 3 to 5 of R74. -/
def execLdkey (n : BitVec 8) (key : Block) (s : State) : Host.Outcome State Fault Refusal :=
  if s.seq ≠ .idle then .next (s.raise .protocolError)
  else if n = 0#8 then .next (s.raise .invalidKeyMaterial)
  else .next (s.loadKey (keyOperand n key)).respondOk

end Sys2Proof.Machine
end

