-- ==== Sys2Proof/Machine/StatusCommands.lean ====
section
/-! DEFINITION. The meanings of `NOP`, `RDSTAT`, `RDREM` and `CLRERR` (45_status_commands.md rules R180 to R183). -/

namespace Sys2Proof.Machine

/-- `NOP` (R180). -/
def execNop (s : State) : Host.Outcome State Fault Refusal := .next s.respondOk

/-- `RDSTAT` (R181). -/
def execRdstat (s : State) : Host.Outcome State Fault Refusal := .next (s.respondData (statusWord s))

/-- `RDREM` (R182). -/
def execRdrem (s : State) : Host.Outcome State Fault Refusal := .next (s.respondData s.rem)

/-- `CLRERR` (R183). -/
def execClrerr (s : State) : Host.Outcome State Fault Refusal := .next s.clearErr.respondOk

end Sys2Proof.Machine
end

