-- ==== Sys2Proof/Machine/Dispatch.lean ====
section
/-! DEFINITION. The meaning of each command, one arm per row of spec/opcode_table.json. -/

namespace Sys2Proof.Machine

def exec (i : Instr) (s : State) : Host.Outcome State Fault Refusal :=
  match i with
  | .nop => Sys2Proof.Machine.execNop s
  | .ldkey n key => Sys2Proof.Machine.execLdkey n key s
  | .ldiv iv => Sys2Proof.Machine.execLdiv iv s
  | .start mode len => Sys2Proof.Machine.execStart mode len s
  | .blk data => Sys2Proof.Machine.execBlk data s
  | .abort => Sys2Proof.Machine.execAbort s
  | .rdout => Sys2Proof.Machine.execRdout s
  | .rdstat => Sys2Proof.Machine.execRdstat s
  | .rdrem => Sys2Proof.Machine.execRdrem s
  | .clrerr => Sys2Proof.Machine.execClrerr s

end Sys2Proof.Machine
end

