-- ==== Sys2Proof/Machine/Execute.lean ====
section
/-! DEFINITION. Executing one move of the host: the decoding steps of 30_encoding.md rule R74 in front of a command's own rule, and the reset event (70_reset_and_hazards.md rule R260). -/

namespace Sys2Proof.Machine

/-- A command word: steps 1 and 2 of R74 by the decoder, a failure raising `IllegalCommand` (R75, R223); steps 3 to 5 by `exec`. -/
def executeWord (w : Cmd) (s : State) : Host.Outcome State Fault Refusal :=
  match decode w with
  | .command i => exec i s
  | .illegal _ => .next (s.raise .illegalCommand)

/-- One move of the host (R5). -/
def executeEvent (ev : HostEvent) (s : State) : Host.Outcome State Fault Refusal :=
  match ev with
  | .command w => executeWord w s
  | .reset => .next s.resetEvent

end Sys2Proof.Machine
end

