-- ==== Sys2Proof/Machine/Step.lean ====
section
/-! DEFINITION. One step of the machine: the next move of the host is taken from the port and executed whole (00_scope.md rule R4). -/

namespace Sys2Proof.Machine

/-- One step: one move of the host (R4, R58). With nothing presented there is no step (log 1). -/
def step (s : State) : Host.Outcome State Fault Refusal :=
  match s.fetch with
  | none => .fault .noCommand
  | some (ev, t) => executeEvent ev t

/-- The state in which the host presents, before anything else, the command word whose low `nbits` bits are `w`. -/
def State.withFetchWord (s : State) (nbits w : Nat) : State := s.present (.command (tableWord nbits w))

end Sys2Proof.Machine
end

