-- ==== Sys2Proof/Machine/Facade.lean ====
section
/-! DEFINITION. The host-side pseudo-operations SETKEY, SETIV, ENCRYPT, DECRYPT, HEX and UNHEX (46_facade_pseudo_ops.md rules R200 to R207): fixed expansions into commands, each executed by `step`. They add nothing to the engine. -/

namespace Sys2Proof.Machine

/-- What a pseudo-operation gives the host (R200, R205). -/
inductive HostResult (α : Type) where
  /-- The result. -/
  | ok (result : α)
  /-- The first response with `RCODE >= 0x80`, and no data (R200). -/
  | error (rcode : BitVec 8)
  /-- The spec does not define the pseudo-operation on these arguments: `SETIV`, `ENCRYPT` or `DECRYPT` with an IV of a length
  other than 8 (R202, U11), a message of 2^64 bytes or more (U16). No command is issued (log 8). -/
  | notDefined
  /-- The engine gave no response; no state does so (R71). -/
  | noAnswer
deriving DecidableEq, Repr

/-- The host presents one command and reads its response (R200). -/
def issue (w : Cmd) (s : State) : Option (State × Resp) :=
  match step (s.present (.command w)) with
  | .next t => t.resp.map fun r => (t, r)
  | .fault _ => none
  | .refused _ => none

/-- The data a response carries: one block when `RCODE` is `OKDATA`, else nothing (R79). -/
def respBlocks (r : Resp) : List Block := if respRcode r = rcodeOkData then [respRdata r] else []

/-- The host issues commands one after another, reads each response before issuing the next, and stops at the first response
with `RCODE >= 0x80` (R200). The result is the data of the responses, in order. -/
def issueAll : List Cmd → State → State × HostResult (List Block)
  | [], s => (s, .ok [])
  | w :: ws, s =>
    match issue w s with
    | none => (s, .noAnswer)
    | some (t, r) =>
      if 0x80#8 ≤ respRcode r then (t, .error (respRcode r))
      else
        match issueAll ws t with
        | (u, .ok out) => (u, .ok (respBlocks r ++ out))
        | (u, e) => (u, e)

/-- `SETKEY key`: `LDKEY min(m, 255), be64(key[0 .. min(m,8)-1])` (R201). -/
def setKeyCmd (key : List Byte) : Cmd :=
  encode (.ldkey (BitVec.ofNat 8 (min key.length Config.maxKeyLen)) (be64 (key.take Config.blockBytes)))

/-- `SETIV iv`: `LDIV be64(iv)`, for an IV of exactly 8 bytes; "not defined for other lengths", so no command: no byte is padded
or cut (R202). -/
def setIvCmd (iv : List Byte) : Option Cmd :=
  if iv.length = Config.blockBytes then some (encode (.ldiv (be64 iv))) else none

/-- The commands of a pseudo-operation issued, or `notDefined` and nothing issued where the spec defines none (log 8). -/
def issueDefined (cmds : Option (List Cmd)) (s : State) : State × HostResult (List Block) :=
  match cmds with
  | some ws => issueAll ws s
  | none => (s, .notDefined)

/-- `SETKEY key` as the host runs it (R200, R201). -/
def setKeyOp (key : List Byte) (s : State) : State × HostResult (List Block) := issueDefined (some [setKeyCmd key]) s

/-- `SETIV iv` as the host runs it (R200, R202). -/
def setIvOp (iv : List Byte) (s : State) : State × HostResult (List Block) :=
  issueDefined ((setIvCmd iv).map fun w => [w]) s

/-- `be64(m[8k .. min(8k+8, LEN)-1])`, the k-th block the host presents (R203, R204). -/
def messageBlock (m : List Byte) (k : Nat) : Block := be64 ((m.drop (8 * k)).take 8)

/-- `START` and the `BLK`s of a message: `n` blocks of `m` (R203, R204). -/
def messageCmds (mode : BitVec 8) (m : List Byte) (n : Nat) : List Cmd :=
  encode (.start mode (BitVec.ofNat 64 m.length)) :: (List.range n).map fun k => encode (.blk (messageBlock m k))

/-- The blocks of a result as bytes (R203, R204). -/
def HostResult.toBytes : HostResult (List Block) → HostResult (List Byte)
  | .ok blocks => .ok (decodeBits blocks)
  | .error rcode => .error rcode
  | .notDefined => .notDefined
  | .noAnswer => .noAnswer

/-- `SETKEY`, `SETIV`, and the message's commands (R203, R204); none where `SETIV` is not defined (R202) or the length cannot be
expressed (U16). -/
def messageExpansion (mode : BitVec 8) (m key iv : List Byte) (n : Nat) : Option (List Cmd) :=
  if m.length < Config.lenBound then (setIvCmd iv).map fun w => setKeyCmd key :: w :: messageCmds mode m n else none

/-- A message's expansion issued, its blocks as bytes (R203, R204). -/
def messageOp (mode : BitVec 8) (m key iv : List Byte) (n : Nat) (s : State) : State × HostResult (List Byte) :=
  ((issueDefined (messageExpansion mode m key iv n) s).1, (issueDefined (messageExpansion mode m key iv n) s).2.toBytes)

/-- `ENCRYPT m, key, iv` (R203): `ceil(LEN/8)` blocks, raw bytes. -/
def encryptOp (m key iv : List Byte) (s : State) : State × HostResult (List Byte) :=
  messageOp 0#8 m key iv ((m.length + 7) / 8) s

/-- `DECRYPT c, key, iv` (R204): `LEN/8` blocks, the padding kept (R206). -/
def decryptOp (c key iv : List Byte) (s : State) : State × HostResult (List Byte) :=
  messageOp 1#8 c key iv (c.length / 8) s

/-! ## Hexadecimal text (R207) -/

/-- The hexadecimal digits of a letter case (R207, P1). -/
def hexDigits : HexCase → List Char
  | .upper => ['0', '1', '2', '3', '4', '5', '6', '7', '8', '9', 'A', 'B', 'C', 'D', 'E', 'F']
  | .lower => ['0', '1', '2', '3', '4', '5', '6', '7', '8', '9', 'a', 'b', 'c', 'd', 'e', 'f']

/-- The digit of a value 0..15. -/
def hexDigit (c : HexCase) (x : Nat) : Char := (hexDigits c).getD x '0'

/-- `HEX(bytes)`: two digits a byte, high nibble first, no separator, no prefix (R207). -/
def hexText (c : HexCase) (bytes : List Byte) : List Char :=
  bytes.flatMap fun b => [hexDigit c (b.toNat / 16), hexDigit c (b.toNat % 16)]

/-- The value of a hexadecimal digit of either letter case. -/
def hexValue (ch : Char) : Option Nat :=
  match (hexDigits .upper).idxOf? ch with
  | some x => some x
  | none => (hexDigits .lower).idxOf? ch

/-- `UNHEX(text)`: the inverse of `HEX`, both letter cases accepted (R207); none for a text that is no sequence of digit
pairs, of which the spec says nothing (log 9). -/
def unhexText : List Char → Option (List Byte)
  | [] => some []
  | [_] => none
  | h :: l :: rest =>
    match hexValue h, hexValue l, unhexText rest with
    | some x, some y, some bs => some (BitVec.ofNat 8 (16 * x + y) :: bs)
    | _, _, _ => none

end Sys2Proof.Machine
end

