-- ==== Sys2Proof/Safety.lean ====
section
/-! DEFINITION. What a safe state and a safe run of the IB3 cipher core are: the invariant of 10_state.md rule R37, which registers hold a value (R21, R23, R25, R26), and when two states are the same to the host (R40, U12). -/

namespace Sys2Proof.Safety

open Sys2Proof.Machine

/-- The invariant of R37, clauses (b) to (f) on the register contents; (a) is the type of `seq`. -/
abbrev RegInv (s : State) : Prop :=
  (s.seq ≠ .idle → s.kvalid = true ∧ s.ivvalid = true ∧ s.rem ≠ 0) ∧
  (s.seq = .idle → s.rem = 0) ∧
  (s.seq = .dec → s.rem.toNat % 8 = 0) ∧
  (s.ovalid = true → s.kvalid = true ∧ s.ivvalid = true) ∧
  s.err ≠ some .malformedBitLength ∧
  s.err ≠ some .indexOutOfRange

/-- Two states the host cannot tell apart: equal but for the bits of registers that hold no value, which are `KEY` while
`KVALID = 0` (R21), `IV` while `IVVALID = 0` (R23), `PREV` while no message is open (R25) and `DOUT` while `OVALID = 0` (R26). -/
abbrev SameToHost (s t : State) : Prop :=
  s.kvalid = t.kvalid ∧ s.ivvalid = t.ivvalid ∧ s.ovalid = t.ovalid ∧ s.seq = t.seq ∧ s.rem = t.rem ∧ s.err = t.err ∧
  s.resp = t.resp ∧ s.script = t.script ∧
  (s.kvalid = true → s.key = t.key) ∧
  (s.ivvalid = true → s.iv = t.iv) ∧
  (s.seq ≠ .idle → s.prev = t.prev) ∧
  (s.ovalid = true → s.dout = t.dout)

/-- A step that the machine completes: it reaches a next state. -/
def completes (s : State) : Bool :=
  match step s with
  | .next _ => true
  | .fault _ => false
  | .refused _ => false

end Sys2Proof.Safety
end

