-- ==== Sys2Proof/Certificates/Slice0/Obligations.lean ====
section
/-! DEFINITION. The statements about the IB3 cipher core, from the numbered rules of spec/. What the spec marks as its own inference or as general knowledge is stated here as derived; each docstring names where it stands. -/

/-! ## Vocabulary of the statements, written from the spec apart from the model's own operations -/

namespace Sys2Proof.Claims

open Sys2Proof.Machine

/-- The engine's answer when the host presents the word `OP << 72 | ARG << 64 | PAYLOAD` in state `s` (R70, R77). -/
abbrev afterWord (op arg : BitVec 8) (payload : BitVec 64) (s : State) : Host.Outcome State Fault Refusal :=
  step (s.present (.command (mkCmd op arg payload)))

/-- The response `OK` with `RDATA = 0` (R79). -/
abbrev okResp : Option Resp := some (0x00#8 ++ 0#64)

/-- The response `OKDATA` with its data (R79). -/
abbrev dataResp (d : BitVec 64) : Option Resp := some (0x01#8 ++ d)

/-- The `RCODE` of each error, `0x80 | code` (R79, R221). -/
def errorRcode : Exc → BitVec 8
  | .illegalCommand => 0x81
  | .protocolError => 0x82
  | .invalidKeyMaterial => 0x83
  | .missingIv => 0x84
  | .malformedCiphertextLength => 0x85
  | .malformedBitLength => 0x86
  | .indexOutOfRange => 0x87
  | .outputNotValid => 0x88

/-- The state after a refused command: `ERR` and the response, nothing else (R225). -/
abbrev refusedState (e : Exc) (s : State) : State := { s with err := some e, resp := some (errorRcode e ++ 0#64) }

/-- The ten opcodes of R72. -/
def opcodes : List (BitVec 8) := [0x00, 0x01, 0x02, 0x10, 0x11, 0x12, 0x20, 0x21, 0x22, 0x23]

/-- A field that must be 0 is not 0, or `START` has `ARG > 1` (R74 step 2). -/
def reservedFieldSet (op arg : BitVec 8) (payload : BitVec 64) : Prop :=
  (op ∈ [0x00#8, 0x12#8, 0x20#8, 0x21#8, 0x22#8, 0x23#8] ∧ (arg ≠ 0 ∨ payload ≠ 0)) ∨
  (op ∈ [0x02#8, 0x11#8] ∧ arg ≠ 0) ∨ (op = 0x10#8 ∧ 1 < arg.toNat)

/-- The sequencer does not allow the command (R74 step 3). -/
def wrongState (op : BitVec 8) (s : State) : Prop :=
  (op ∈ [0x01#8, 0x02#8, 0x10#8] ∧ s.seq ≠ .idle) ∨ (op = 0x11#8 ∧ s.seq = .idle)

/-- `e` is the error of the first failing check of R74, in its order; `none` when every check passes. Each line holds only
where the lines before it do not. -/
inductive FirstFailure (op arg : BitVec 8) (payload : BitVec 64) (s : State) : Option Exc → Prop where
  | opcode (h : op ∉ opcodes) : FirstFailure op arg payload s (some .illegalCommand)
  | reserved (h1 : op ∈ opcodes) (h2 : reservedFieldSet op arg payload) : FirstFailure op arg payload s (some .illegalCommand)
  | state (h1 : op ∈ opcodes) (h2 : ¬ reservedFieldSet op arg payload) (h3 : wrongState op s) :
      FirstFailure op arg payload s (some .protocolError)
  | emptyKey (h1 : op = 0x01) (h2 : ¬ wrongState op s) (h3 : arg = 0) :
      FirstFailure op arg payload s (some .invalidKeyMaterial)
  | noKey (h1 : op = 0x10) (h2 : ¬ reservedFieldSet op arg payload) (h3 : ¬ wrongState op s) (h4 : s.kvalid = false) :
      FirstFailure op arg payload s (some .invalidKeyMaterial)
  | noIv (h1 : op = 0x10) (h2 : ¬ reservedFieldSet op arg payload) (h3 : ¬ wrongState op s) (h4 : s.kvalid = true)
      (h5 : s.ivvalid = false) : FirstFailure op arg payload s (some .missingIv)
  | length (h1 : op = 0x10) (h2 : ¬ wrongState op s) (h3 : s.kvalid = true) (h4 : s.ivvalid = true) (h5 : arg = 1)
      (h6 : payload.toNat % 8 ≠ 0) : FirstFailure op arg payload s (some .malformedCiphertextLength)
  | noOutput (h1 : op = 0x20) (h2 : ¬ reservedFieldSet op arg payload) (h3 : s.ovalid = false) :
      FirstFailure op arg payload s (some .outputNotValid)
  | passes (h1 : op ∈ opcodes) (h2 : ¬ reservedFieldSet op arg payload) (h3 : ¬ wrongState op s)
      (h4 : op = 0x01 → arg ≠ 0)
      (h5 : op = 0x10 → s.kvalid = true ∧ s.ivvalid = true ∧ (arg = 1 → payload.toNat % 8 = 0))
      (h6 : op = 0x20 → s.ovalid = true) : FirstFailure op arg payload s none

/-- The ten registers of R20. -/
inductive Reg where
  | key | kvalid | iv | ivvalid | prev | dout | ovalid | seq | rem | err
deriving DecidableEq, Repr

/-- Two states hold the same value in a register. -/
def sameReg (s t : State) : Reg → Prop
  | .key => s.key = t.key
  | .kvalid => s.kvalid = t.kvalid
  | .iv => s.iv = t.iv
  | .ivvalid => s.ivvalid = t.ivvalid
  | .prev => s.prev = t.prev
  | .dout => s.dout = t.dout
  | .ovalid => s.ovalid = t.ovalid
  | .seq => s.seq = t.seq
  | .rem => s.rem = t.rem
  | .err => s.err = t.err

/-- What a command writes when it succeeds (R41). -/
def writeSet : Instr → List Reg
  | .nop => []
  | .ldkey _ _ => [.key, .kvalid]
  | .ldiv _ => [.iv, .ivvalid]
  | .start _ _ => [.prev, .rem, .seq, .ovalid]
  | .blk _ => [.dout, .ovalid, .prev, .rem, .seq]
  | .abort => [.seq, .rem, .ovalid]
  | .rdout => []
  | .rdstat => []
  | .rdrem => []
  | .clrerr => [.err]

/-- What a command reads (R41). -/
def readSet : Instr → List Reg
  | .nop => []
  | .ldkey _ _ => [.seq]
  | .ldiv _ => [.seq]
  | .start _ _ => [.seq, .kvalid, .ivvalid, .iv]
  | .blk _ => [.seq, .rem, .key, .prev]
  | .abort => []
  | .rdout => [.ovalid, .dout]
  | .rdstat => [.seq, .kvalid, .ivvalid, .ovalid, .err]
  | .rdrem => [.rem]
  | .clrerr => []

/-- A response that is no refusal (R79). -/
def succeeded (t : State) : Prop := ∃ r, t.resp = some r ∧ (respRcode r = 0x00 ∨ respRcode r = 0x01)

/-- The key bit that becomes bit `j` of subkey `i`: through `PC2`, back through the rotation by `CUM[i]` inside its 28-bit
half, and through `PC1` (R113, R115). Indices from 0. -/
def keyBitIndex (i : Fin 16) (j : Nat) : Nat :=
  let p := tablePC2.entries.getD j 0
  let q := if p ≤ 28 then (p - 1 + cumAt i) % 28 else 28 + (p - 29 + cumAt i) % 28
  tablePC1.entries.getD q 0 - 1

/-- The ciphertext blocks of a chain: `C_k = blockEnc(P_k ^ C_(k-1), RK)`, `C_(-1) = IV`, for `k < n` (R165). -/
def EncryptsChain (rk : RoundKeys) (iv : Block) (n : Nat) (P C : Nat → Block) : Prop :=
  ∀ k < n, C k = blockEnc (P k ^^^ (if k = 0 then iv else C (k - 1))) rk

end Sys2Proof.Claims

open Sys2Proof Sys2Proof.Machine Sys2Proof.Safety Sys2Proof.Claims

/-! ## Decoding and encoding (30_encoding.md) -/

/-- The words the spec writes out for each command, and reserved words it names, decode as it says (30_encoding.md R77,
44_cbc_commands.md R162 to R168, 95_test_vectors.md V6.2). A sanity statement. -/
def Obligations.SpecWordsDecodeAsTheSpecReadsThem : Prop :=
  decode 0x00000000000000000000 = .command .nop ∧
  decode 0x010853757065725F5365 = .command (.ldkey 8 0x53757065725F5365) ∧
  decode 0x02003031323334353637 = .command (.ldiv 0x3031323334353637) ∧
  decode 0x1000000000000000000D = .command (.start 0 13) ∧
  decode 0x10010000000000000005 = .command (.start 1 5) ∧
  decode 0x11004142434445464748 = .command (.blk 0x4142434445464748) ∧
  decode 0x12000000000000000000 = .command .abort ∧
  decode 0x20000000000000000000 = .command .rdout ∧
  decode 0x21000000000000000000 = .command .rdstat ∧
  decode 0x22000000000000000000 = .command .rdrem ∧
  decode 0x23000000000000000000 = .command .clrerr ∧
  decode 0xFF000000000000000000 = .illegal .reservedOpcode ∧
  decode 0x03000000000000000000 = .illegal .reservedOpcode ∧
  decode 0x00000000000000000001 = .illegal .reservedField ∧
  decode 0x10020000000000000008 = .illegal .reservedField

/-- For every well-formed command, decoding its word gives it back, at every value of every operand (30_encoding.md
sections 1 to 4). -/
def Obligations.DecodeOfEncodeGivesTheCommand : Prop :=
  ∀ i : Instr, i.wellFormed = true → decode (encode i) = .command i

/-- A word that decodes is the encoding of the command it decodes to, and that command is well formed: no two words mean one
command, and no bit of a word is dropped (30_encoding.md sections 2 to 5). -/
def Obligations.DecodedWordIsTheEncodingOfItsCommand : Prop :=
  ∀ (w : Cmd) (i : Instr), decode w = .command i → i.wellFormed = true ∧ encode i = w

/-- R75: "a word is reserved exactly when it matches no row" of the opcode table; such a word is refused with
`IllegalCommand` and changes nothing but `ERR` (and the response port); the only encoding that decodes to `NOP` is the
all-zero word. -/
def Obligations.ReservedWordsMatchNoRowAndAreRefused : Prop :=
  (∀ w : Cmd, (∃ i, decode w = .command i) ↔ ∃ r ∈ opcodeTable, w &&& r.mask = r.pattern) ∧
  (∀ (w : Cmd) (s : State), (∀ r ∈ opcodeTable, w &&& r.mask ≠ r.pattern) →
    step (s.present (.command w)) = .next (refusedState .illegalCommand s)) ∧
  (∀ w : Cmd, decode w = .command .nop ↔ w = 0)

/-! ## The step (00_scope.md, 60_exceptions.md) -/

/-- A step runs the decoded command: when the next move of the host is a word that decodes to a command, the step is that
command's meaning, in the state from which the move has been taken. How the host's moves are held is the model's choice
(log 1). -/
def Obligations.StepRunsTheDecodedCommand : Prop :=
  ∀ (s : State) (w : Cmd) (rest : List HostEvent) (i : Instr),
    s.script = .command w :: rest → decode w = .command i → step s = exec i { s with script := rest }

/-- The only state in which no step happens is the one in which the host has presented nothing; in every other the engine
reaches a next state: "every command responds (there is no wait, hold or stall state)" (70_reset_and_hazards.md sections 4 and 5).
That the host's moves are a list, and the stop's name, are the model's choice (log 1). -/
def Obligations.OnlyAnEmptyPortStops : Prop :=
  ∀ s : State, (s.script = [] → step s = .fault .noCommand) ∧ (s.script ≠ [] → ∃ t, step s = .next t)

/-- R71 and R79: every command produces exactly one response word; it is `OK` with no data, or `OKDATA` from `BLK`, `RDOUT`,
`RDSTAT`, `RDREM`, or `0x80 | code` with no data and one of the six codes that occur, the code `ERR` then holds. -/
def Obligations.EveryCommandAnswersOneOfTheResultCodes : Prop :=
  ∀ (w : Cmd) (s : State), ∃ t r, step (s.present (.command w)) = .next t ∧ t.resp = some r ∧
    ((respRcode r = 0x00 ∧ respRdata r = 0 ∧
        ∃ i, decode w = .command i ∧ ∀ d, i ≠ .blk d ∧ i ≠ .rdout ∧ i ≠ .rdstat ∧ i ≠ .rdrem) ∨
      (respRcode r = 0x01 ∧
        ((∃ d, decode w = .command (.blk d)) ∨ decode w = .command .rdout ∨ decode w = .command .rdstat ∨
          decode w = .command .rdrem)) ∨
      ∃ e ∈ [Exc.illegalCommand, .protocolError, .invalidKeyMaterial, .missingIv, .malformedCiphertextLength,
          .outputNotValid], respRcode r = errorRcode e ∧ respRdata r = 0 ∧ t.err = some e)

/-- R74 and R222: a command word is refused with the error of the FIRST failing check (opcode, reserved field, `STATE`,
operands and flags, `START` in the order key, IV, length), and a word that passes every check is executed and answers `OK` or
`OKDATA`. -/
def Obligations.CommandsReportTheFirstFailingCheck : Prop :=
  ∀ (op arg : BitVec 8) (payload : BitVec 64) (s : State),
    (∃ f, FirstFailure op arg payload s f) ∧
    (∀ e, FirstFailure op arg payload s (some e) → afterWord op arg payload s = .next (refusedState e s)) ∧
    (FirstFailure op arg payload s none → ∃ t, afterWord op arg payload s = .next t ∧ succeeded t)

/-- R225: a refused command writes `ERR` and answers `0x80 | code`; no other register is written. That the host's coming
moves stay is the model's form of the port (log 1). -/
def Obligations.RefusedCommandChangesOnlyErr : Prop :=
  ∀ (w : Cmd) (s t : State) (r : Resp), step (s.present (.command w)) = .next t → t.resp = some r → 0x80 ≤ respRcode r →
    ∃ e, t = refusedState e s

/-- After a refused command, the next command that does not read `STATUS` answers and leaves the engine as if the refused one
had never been issued, but for `ERR` (60_exceptions.md section 3; 44_cbc_commands.md section 3, which marks it as derived). -/
def Obligations.RefusedCommandIsInvisibleToTheNext : Prop :=
  ∀ (w1 w2 : Cmd) (s s1 t1 t2 : State) (e : Exc), step (s.present (.command w1)) = .next s1 → s1 = refusedState e s →
    decode w2 ≠ .command .rdstat → step (s1.present (.command w2)) = .next t1 → step (s.present (.command w2)) = .next t2 →
    t1.resp = t2.resp ∧ { t1 with err := none } = { t2 with err := none }

/-! ## The commands, one by one: what each does and where it completes

Every next state below holds its response in `resp` and keeps the host's coming moves: the model's form of the ports (log 1, log 2). -/

/-- R180: `NOP` answers `OK` and writes nothing, in every state; with `ARG` or `PAYLOAD` not 0 the word is refused with
`IllegalCommand`. -/
def Obligations.NopAnswersOkAndWritesNothing : Prop :=
  (∀ (arg : BitVec 8) (payload : BitVec 64) (s : State), afterWord 0x00 arg payload s =
    if arg = 0 ∧ payload = 0 then exec .nop s else .next (refusedState .illegalCommand s)) ∧
  ∀ s : State, exec .nop s = .next { s with resp := okResp }

/-- R112: `LDKEY n, key`, in `IDLE` with `n` not 0, loads the first `min(n, 8)` payload bytes, the rest zero, and sets `KVALID`;
with a message open it is refused with `ProtocolError`, with `n = 0` with `InvalidKeyMaterial`. No `ARG` value is reserved. The
effect is `KEY = normKey(key)` for every key whose length is `n` (255 for any length of 255 or more) and whose first bytes are in
the payload, whatever the payload's other bytes. -/
def Obligations.LdkeyLoadsTheKeyInIdle : Prop :=
  (∀ (n : BitVec 8) (key : Block) (s : State), afterWord 0x01 n key s = exec (.ldkey n key) s) ∧
  (∀ (n : BitVec 8) (key : Block) (s : State), s.seq ≠ .idle →
    exec (.ldkey n key) s = .next (refusedState .protocolError s)) ∧
  (∀ (key : Block) (s : State), s.seq = .idle → exec (.ldkey 0 key) s = .next (refusedState .invalidKeyMaterial s)) ∧
  (∀ (n : BitVec 8) (key : Block) (s : State), s.seq = .idle → n ≠ 0 →
    exec (.ldkey n key) s = .next { s with key := keep key (min n.toNat 8), kvalid := true, resp := okResp }) ∧
  (∀ (bytes : List Byte) (n : BitVec 8) (payload : Block) (s : State), s.seq = .idle → bytes ≠ [] →
    n.toNat = min bytes.length 255 → (∀ j < min bytes.length 8, byteAt payload j = bytes.getD j 0) →
    exec (.ldkey n payload) s = .next { s with key := normKey bytes, kvalid := true, resp := okResp })

/-- R162: `LDIV iv`, in `IDLE`, loads the IV, every 64-bit value, and sets `IVVALID`; with a message open it is refused with
`ProtocolError`, with `ARG` not 0 with `IllegalCommand`. -/
def Obligations.LdivLoadsTheIvInIdle : Prop :=
  (∀ (arg : BitVec 8) (iv : Block) (s : State), afterWord 0x02 arg iv s =
    if arg = 0 then exec (.ldiv iv) s else .next (refusedState .illegalCommand s)) ∧
  (∀ (iv : Block) (s : State), s.seq ≠ .idle → exec (.ldiv iv) s = .next (refusedState .protocolError s)) ∧
  (∀ (iv : Block) (s : State), s.seq = .idle →
    exec (.ldiv iv) s = .next { s with iv := iv, ivvalid := true, resp := okResp })

/-- R163: `START mode, LEN`: its five refusals in order, and, where none applies, `PREV <- IV`, `REM <- LEN`, `OVALID <- 0`, and
`STATE` by the mode, `IDLE` for a length of 0. -/
def Obligations.StartOpensAMessage : Prop :=
  (∀ (mode : BitVec 8) (len : BitVec 64) (s : State), afterWord 0x10 mode len s = exec (.start mode len) s) ∧
  (∀ (mode : BitVec 8) (len : BitVec 64) (s : State), 1 < mode.toNat →
    exec (.start mode len) s = .next (refusedState .illegalCommand s)) ∧
  (∀ (mode : BitVec 8) (len : BitVec 64) (s : State), mode.toNat ≤ 1 → s.seq ≠ .idle →
    exec (.start mode len) s = .next (refusedState .protocolError s)) ∧
  (∀ (mode : BitVec 8) (len : BitVec 64) (s : State), mode.toNat ≤ 1 → s.seq = .idle → s.kvalid = false →
    exec (.start mode len) s = .next (refusedState .invalidKeyMaterial s)) ∧
  (∀ (mode : BitVec 8) (len : BitVec 64) (s : State), mode.toNat ≤ 1 → s.seq = .idle → s.kvalid = true → s.ivvalid = false →
    exec (.start mode len) s = .next (refusedState .missingIv s)) ∧
  (∀ (len : BitVec 64) (s : State), s.seq = .idle → s.kvalid = true → s.ivvalid = true → len.toNat % 8 ≠ 0 →
    exec (.start 1 len) s = .next (refusedState .malformedCiphertextLength s)) ∧
  (∀ (mode : BitVec 8) (len : BitVec 64) (s : State), mode.toNat ≤ 1 → s.seq = .idle → s.kvalid = true → s.ivvalid = true →
    (mode = 1 → len.toNat % 8 = 0) →
    exec (.start mode len) s = .next { s with
      prev := s.iv, rem := len, ovalid := false,
      seq := if len = 0 then .idle else if mode = 0 then .enc else .dec, resp := okResp })

/-- R164: `BLK data`. Encrypting: the first `min(REM, 8)` bytes kept, XORed with `PREV`, encrypted, latched and handed on as
`PREV`. Decrypting: decrypted, XORed with the OLD `PREV`, latched, and the ciphertext handed on as `PREV`. Either way `REM`
goes down and the message ends at 0. Refused with `ProtocolError` when no message is open, with `IllegalCommand` when `ARG` is
not 0. `8 <= REM` in `DEC` is R37 (d). -/
def Obligations.BlkAdvancesTheChain : Prop :=
  (∀ (arg : BitVec 8) (data : Block) (s : State), afterWord 0x11 arg data s =
    if arg = 0 then exec (.blk data) s else .next (refusedState .illegalCommand s)) ∧
  (∀ (data : Block) (s : State), s.seq = .idle → exec (.blk data) s = .next (refusedState .protocolError s)) ∧
  (∀ (data c : Block) (s : State), s.seq = .enc → c = blockEnc (keep data (min s.rem.toNat 8) ^^^ s.prev) (subkey s.key) →
    exec (.blk data) s = .next { s with
      dout := c, prev := c, ovalid := true, rem := if s.rem ≤ 8 then 0 else s.rem - 8,
      seq := if s.rem ≤ 8 then .idle else .enc, resp := dataResp c }) ∧
  (∀ (data p : Block) (s : State), s.seq = .dec → 8 ≤ s.rem → p = blockDec data (subkey s.key) ^^^ s.prev →
    exec (.blk data) s = .next { s with
      dout := p, prev := data, ovalid := true, rem := s.rem - 8,
      seq := if s.rem = 8 then .idle else .dec, resp := dataResp p })

/-- R167: `ABORT`, in every state, sets `STATE` to `IDLE`, `REM` to 0, clears `OVALID` and answers `OK`; `KEY`, `KVALID`, `IV`,
`IVVALID` and `ERR` are unchanged; with `ARG` or `PAYLOAD` not 0 the word is refused with `IllegalCommand`. Nothing is said of
`PREV` and `DOUT`, which hold no value afterwards. -/
def Obligations.AbortDropsTheMessage : Prop :=
  (∀ (arg : BitVec 8) (payload : BitVec 64) (s : State), afterWord 0x12 arg payload s =
    if arg = 0 ∧ payload = 0 then exec .abort s else .next (refusedState .illegalCommand s)) ∧
  ∀ s : State, ∃ t, exec .abort s = .next t ∧ t.seq = .idle ∧ t.rem = 0 ∧ t.ovalid = false ∧ t.resp = okResp ∧
    t.key = s.key ∧ t.kvalid = s.kvalid ∧ t.iv = s.iv ∧ t.ivvalid = s.ivvalid ∧ t.err = s.err ∧ t.script = s.script

/-- R168: `RDOUT` answers `DOUT` and writes nothing when `OVALID = 1`, and is refused with `OutputNotValid` when it is 0; with
`ARG` or `PAYLOAD` not 0 the word is refused with `IllegalCommand`. After a `BLK` that was not refused it answers the very
response of that `BLK`, and may be repeated; every other command but a successful `START` or `ABORT` leaves it so; after reset,
after `START` and after `ABORT` it is refused. -/
def Obligations.RdoutRepeatsTheLastOutput : Prop :=
  (∀ (arg : BitVec 8) (payload : BitVec 64) (s : State), afterWord 0x20 arg payload s =
    if arg = 0 ∧ payload = 0 then exec .rdout s else .next (refusedState .illegalCommand s)) ∧
  (∀ s : State, s.ovalid = false → exec .rdout s = .next (refusedState .outputNotValid s)) ∧
  (∀ s : State, s.ovalid = true → exec .rdout s = .next { s with resp := dataResp s.dout }) ∧
  (∀ (data : Block) (s t : State), s.seq ≠ .idle → exec (.blk data) s = .next t → exec .rdout t = .next t) ∧
  (∀ (i : Instr) (s t : State), exec i s = .next t →
    (succeeded t → ∀ m len d, i ≠ .start m len ∧ i ≠ .blk d ∧ i ≠ .abort) → t.dout = s.dout ∧ t.ovalid = s.ovalid) ∧
  (∀ s t : State, (step (s.present .reset) = .next t ∨ exec .abort s = .next t ∨
      ∃ m len, exec (.start m len) s = .next t ∧ succeeded t) → exec .rdout t = .next (refusedState .outputNotValid t))

/-- R181: `RDSTAT` answers `STATE | KVALID << 2 | IVVALID << 3 | OVALID << 4 | ERR << 8` and writes nothing; with `ARG` or
`PAYLOAD` not 0 the word is refused with `IllegalCommand`. -/
def Obligations.RdstatAnswersTheStatusWord : Prop :=
  (∀ (arg : BitVec 8) (payload : BitVec 64) (s : State), afterWord 0x21 arg payload s =
    if arg = 0 ∧ payload = 0 then exec .rdstat s else .next (refusedState .illegalCommand s)) ∧
  ∀ (s : State), ∃ status : BitVec 64, exec .rdstat s = .next { s with resp := dataResp status } ∧
    status.toNat = (match s.seq with | .idle => 0 | .enc => 1 | .dec => 2) + 4 * s.kvalid.toNat + 8 * s.ivvalid.toNat +
      16 * s.ovalid.toNat + 256 * (match s.err with
        | none => 0 | some .illegalCommand => 1 | some .protocolError => 2 | some .invalidKeyMaterial => 3
        | some .missingIv => 4 | some .malformedCiphertextLength => 5 | some .malformedBitLength => 6
        | some .indexOutOfRange => 7 | some .outputNotValid => 8)

/-- `RDREM` answers `REM` and writes nothing: 0 in `IDLE`, `LEN` after `START`, and after `BLK` the value less the bytes consumed
(`IDLE` and `BLK` in a state that meets the invariant of 10_state.md section 6, which the spec marks as derived); with `ARG` or `PAYLOAD` not 0 the word is
refused with `IllegalCommand` (45_status_commands.md). -/
def Obligations.RdremAnswersTheRemainingBytes : Prop :=
  (∀ (arg : BitVec 8) (payload : BitVec 64) (s : State), afterWord 0x22 arg payload s =
    if arg = 0 ∧ payload = 0 then exec .rdrem s else .next (refusedState .illegalCommand s)) ∧
  (∀ s : State, exec .rdrem s = .next { s with resp := dataResp s.rem }) ∧
  (∀ s : State, RegInv s → s.seq = .idle → exec .rdrem s = .next { s with resp := dataResp 0 }) ∧
  (∀ (m : BitVec 8) (len : BitVec 64) (s t : State), exec (.start m len) s = .next t → succeeded t →
    exec .rdrem t = .next { t with resp := dataResp len }) ∧
  (∀ (d : Block) (s t : State), RegInv s → exec (.blk d) s = .next t → succeeded t →
    exec .rdrem t = .next { t with resp := dataResp (BitVec.ofNat 64 (s.rem.toNat - min s.rem.toNat 8)) })

/-- R183: `CLRERR` sets `ERR` to 0, writes nothing else and answers `OK`; with `ARG` or `PAYLOAD` not 0 the word is refused with
`IllegalCommand` and `ERR` becomes 1. -/
def Obligations.ClrerrClearsTheErrorRecord : Prop :=
  (∀ (arg : BitVec 8) (payload : BitVec 64) (s : State), afterWord 0x23 arg payload s =
    if arg = 0 ∧ payload = 0 then exec .clrerr s else .next (refusedState .illegalCommand s)) ∧
  ∀ s : State, exec .clrerr s = .next { s with err := none, resp := okResp }

/-! ## Frames and what a command depends on -/

/-- The frame of every command: a successful one leaves every register outside its write set as it was, a refused one every
register but `ERR`; neither touches the host's coming moves (the table of 10_state.md section 8, which the spec marks as
derived). That the bits of `PREV` and `DOUT` stay after `ABORT` is the model's choice (log 7). -/
def Obligations.CommandsWriteOnlyTheirWriteSet : Prop :=
  ∀ (i : Instr) (s t : State), exec i s = .next t →
    t.script = s.script ∧
    (succeeded t → ∀ r, r ∉ writeSet i → sameReg s t r) ∧
    (¬ succeeded t → ∀ r, r ≠ .err → sameReg s t r)

/-- What a command reads: from two states that agree on its read set it gives the same response and, where it succeeds, the
same values in its write set (the table of 10_state.md section 8, which the spec marks as derived). So no command but `BLK`
depends on `KEY`, and none returns it. -/
def Obligations.CommandsDependOnlyOnTheirReadSet : Prop :=
  ∀ (i : Instr) (s t s' t' : State), (∀ r ∈ readSet i, sameReg s t r) → exec i s = .next s' → exec i t = .next t' →
    s'.resp = t'.resp ∧ (succeeded s' → ∀ r ∈ writeSet i, sameReg s' t' r)

/-- The reads `RDOUT`, `RDSTAT`, `RDREM` may be repeated with the same result (20_memory.md section 4), where `RDOUT` is not
refused. -/
def Obligations.ReadsAreIdempotent : Prop :=
  (∀ s t : State, exec .rdstat s = .next t → exec .rdstat t = .next t) ∧
  (∀ s t : State, exec .rdrem s = .next t → exec .rdrem t = .next t) ∧
  (∀ s t : State, s.ovalid = true → exec .rdout s = .next t → exec .rdout t = .next t)

/-! ## Rules of the whole machine (10_state.md, 70_reset_and_hazards.md) -/

/-- R29: the transitions of `STATE` are exactly those listed, and its three values have the codes 0, 1 and 2. That 3 is never
taken, which R29 marks as derived, is in the type, which has no fourth value. -/
def Obligations.StateChangesOnlyAsListed : Prop :=
  (seqCode .idle = 0 ∧ seqCode .enc = 1 ∧ seqCode .dec = 2) ∧
  (∀ s : State, ∃ t, step (s.present .reset) = .next t ∧ t.seq = .idle) ∧
  ∀ (w : Cmd) (s t : State), step (s.present (.command w)) = .next t →
    (¬ succeeded t → t.seq = s.seq) ∧
    (succeeded t →
      (∀ len, decode w = .command (.start 0 len) → s.seq = .idle ∧ t.seq = if len = 0 then .idle else .enc) ∧
      (∀ len, decode w = .command (.start 1 len) → s.seq = .idle ∧ t.seq = if len = 0 then .idle else .dec) ∧
      (∀ d, decode w = .command (.blk d) → t.seq = if t.rem = 0 then .idle else s.seq) ∧
      (decode w = .command .abort → t.seq = .idle) ∧
      ((∀ m len d, decode w ≠ .command (.start m len) ∧ decode w ≠ .command (.blk d) ∧ decode w ≠ .command .abort) →
        t.seq = s.seq))

/-- R22 and R24: `KVALID` is 0 after reset, set by every successful `LDKEY`, cleared by reset alone, and `START` is refused with
`InvalidKeyMaterial` while it is 0; the same for `IVVALID`, `LDIV` and `MissingIV` (R222: the key is checked first, and both
after the mode and `STATE`). -/
def Obligations.ValidFlagsAreClearedByResetAlone : Prop :=
  (∀ s : State, ∃ t, step (s.present .reset) = .next t ∧ t.kvalid = false ∧ t.ivvalid = false) ∧
  (∀ (w : Cmd) (s t : State), step (s.present (.command w)) = .next t →
    (s.kvalid = true → t.kvalid = true) ∧ (s.ivvalid = true → t.ivvalid = true) ∧
    (∀ n key, decode w = .command (.ldkey n key) → succeeded t → t.kvalid = true) ∧
    (∀ iv, decode w = .command (.ldiv iv) → succeeded t → t.ivvalid = true)) ∧
  (∀ (mode : BitVec 8) (len : BitVec 64) (s : State), mode.toNat ≤ 1 → s.seq = .idle →
    (s.kvalid = false → afterWord 0x10 mode len s = .next (refusedState .invalidKeyMaterial s)) ∧
    (s.kvalid = true → s.ivvalid = false → afterWord 0x10 mode len s = .next (refusedState .missingIv s)))

/-- R31: `ERR` is 0 after reset and after `CLRERR`; every refused command writes its code; a successful command other than
`CLRERR` leaves it; and it gates nothing: whether a command is refused, and with what, does not depend on it. -/
def Obligations.ErrRecordsRefusalsAndGatesNothing : Prop :=
  (∀ s : State, ∃ t, step (s.present .reset) = .next t ∧ t.err = none) ∧
  (∀ (w : Cmd) (s t : State), step (s.present (.command w)) = .next t →
    (decode w = .command .clrerr → t.err = none) ∧
    (succeeded t → decode w ≠ .command .clrerr → t.err = s.err) ∧
    (¬ succeeded t → ∃ e, t.err = some e ∧ t.resp = some (errorRcode e ++ 0#64))) ∧
  (∀ (w : Cmd) (e : Option Exc) (s t u : State), step (s.present (.command w)) = .next t →
    step ({ s with err := e }.present (.command w)) = .next u → (succeeded t ↔ succeeded u) ∧
    (¬ succeeded t → t.resp = u.resp))

/-- R265: `KEY` and `IV` are frozen while a message is open: no command changes them, and `LDKEY` and `LDIV` are refused with
`ProtocolError`. -/
def Obligations.KeyAndIvAreFrozenWhileAMessageIsOpen : Prop :=
  ∀ s : State, s.seq ≠ .idle →
    (∀ (w : Cmd) (t : State), step (s.present (.command w)) = .next t → t.key = s.key ∧ t.iv = s.iv) ∧
    (∀ (n : BitVec 8) (key : Block), afterWord 0x01 n key s = .next (refusedState .protocolError s)) ∧
    (∀ iv : Block, afterWord 0x02 0 iv s = .next (refusedState .protocolError s))

/-- `KEY` changes only by a successful `LDKEY`, `IV` only by a successful `LDIV`, `DOUT` only by `BLK`, `PREV` only by `START` and
`BLK`, among all commands: the IV is "never consumed or updated" (10_state.md section 2, 44_cbc_commands.md section 3). What the
reset event leaves in them, and that `ABORT` leaves `DOUT` and `PREV`, is the model's choice (log 3, log 7). -/
def Obligations.DataRegistersChangeOnlyByTheirCommands : Prop :=
  ∀ (w : Cmd) (s t : State), step (s.present (.command w)) = .next t →
    (t.key ≠ s.key → s.seq = .idle ∧ ∃ n key, n ≠ 0 ∧ decode w = .command (.ldkey n key)) ∧
    (t.iv ≠ s.iv → s.seq = .idle ∧ decode w = .command (.ldiv t.iv)) ∧
    (t.dout ≠ s.dout → s.seq ≠ .idle ∧ ∃ d, decode w = .command (.blk d)) ∧
    (t.prev ≠ s.prev → (∃ m len, decode w = .command (.start m len) ∧ t.prev = s.iv) ∨ ∃ d, decode w = .command (.blk d))

/-- What reset leaves, at power-up and as an event between two commands: `STATE` IDLE, `REM`, `ERR` and the three valid flags 0,
and an `RDSTAT` that answers 0 (10_state.md section 7, 70_reset_and_hazards.md section 1). That the event has no response and
leaves the host's coming moves is the model's form of it (log 2, log 4). -/
def Obligations.ResetLeavesTheStatedValues : Prop :=
  (State.reset.seq = .idle ∧ State.reset.rem = 0 ∧ State.reset.err = none ∧ State.reset.kvalid = false ∧
    State.reset.ivvalid = false ∧ State.reset.ovalid = false) ∧
  ∀ s : State, ∃ t, step (s.present .reset) = .next t ∧ t.seq = .idle ∧ t.rem = 0 ∧ t.err = none ∧ t.kvalid = false ∧
    t.ivvalid = false ∧ t.ovalid = false ∧ t.resp = none ∧ t.script = s.script ∧
    afterWord 0x21 0 0 t = .next { t with resp := dataResp 0 }

/-! ## Invariants -/

/-- Every step keeps the invariant of 10_state.md section 6: an open message has a key, an IV and bytes left; `IDLE` has none
left; in `DEC` the rest is a multiple of 8; a valid output implies a key and an IV; `ERR` is never 6 or 7. The spec marks it as
its own inference, by induction over commands. -/
def Obligations.StepKeepsTheRegisterInvariant : Prop :=
  ∀ s t : State, RegInv s → step s = .next t → RegInv t

/-- The machine after reset meets the invariant of 10_state.md section 6. -/
def Obligations.ResetMeetsTheRegisterInvariant : Prop := RegInv State.reset

/-- The bits of registers that hold no value are unobservable: two states the host cannot tell apart stay so under every step,
with the same response or the same stop ("a model may give them any value or none, and must not let any response depend on
them", 10_state.md section 7). So nothing rests on the reset values the model names (log 3). -/
def Obligations.UnspecifiedBitsAreUnobservable : Prop :=
  ∀ s t : State, RegInv s → SameToHost s t →
    (∀ s', step s = .next s' → ∃ t', step t = .next t' ∧ SameToHost s' t') ∧
    (∀ f, step s = .fault f → step t = .fault f) ∧
    (∀ r, step s = .refused r → step t = .refused r)

/-! ## Bits, permutations, key schedule, S-boxes (20_memory.md, 40 to 42) -/

/-- R51: `encodeBits` gives 8 bits a byte; bit index `8j + t` of the result is bit `7 - t` (LSB-0) of byte j. -/
def Obligations.EncodeBitsIsMostSignificantFirst : Prop :=
  ∀ bytes : List Byte, (encodeBits bytes).length = 8 * bytes.length ∧
    ∀ j < bytes.length, ∀ t < 8, (encodeBits bytes).getD (8 * j + t) false = (bytes.getD j 0).getLsbD (7 - t)

/-- R52: the 64-bit field of 8 bytes is big-endian in bytes and most-significant-first in bits: byte j is `field[63-8j : 56-8j]`,
index i of the block is `field[63-i]`, the bits of the block are those of the bytes in order, and the field gives the bytes
back. -/
def Obligations.BlockFieldsAreBigEndian : Prop :=
  ∀ bytes : List Byte, bytes.length = 8 →
    (∀ j < 8, (be64 bytes).extractLsb' (56 - 8 * j) 8 = bytes.getD j 0) ∧
    (∀ i < 64, (encodeBits bytes).getD i false = (be64 bytes).getLsbD (63 - i)) ∧
    toBits (be64 bytes) = encodeBits bytes ∧ bytes8 (be64 bytes) = bytes

/-- `decodeBits` gives the bytes of its groups back in order: it is the inverse of `encodeBits` on whole blocks (20_memory.md
section 2, which marks it as derived). -/
def Obligations.DecodeBitsInvertsEncodeBits : Prop :=
  (∀ groups : List Block, encodeBits (decodeBits groups) = groups.flatMap toBits) ∧
  (∀ bytes : List Byte, bytes.length % 8 = 0 →
    decodeBits ((List.range (bytes.length / 8)).map (messageBlock bytes)) = bytes)

/-- R90: "output length = table length; `output[i] = input[table[i] - 1]`", for every table and every input. -/
def Obligations.PermuteSelectsTheTablePositions : Prop :=
  ∀ (inW outW : Nat) (t : PermTable inW outW) (v : BitVec inW) (i : Nat), t.entries.length = outW ∧
    (i < outW → (permute v t).getMsbD i = v.getMsbD (t.entries.getD i 0 - 1))

/-- The final permutation is the inverse of the initial one, in both orders (40_permutation_network.md section 3, which marks it
as derived). -/
def Obligations.FinalPermutationInvertsTheInitial : Prop :=
  ∀ v : Block, permute (permute v tableIP) tableFP = v ∧ permute (permute v tableFP) tableIP = v

/-- R110: `normKey` is the key's bits with zero bits after them if short and only the first 64 if long; equivalently
`keep(bits_64(P), min(m, 8))` of the field P of its first bytes. -/
def Obligations.NormKeyPadsAndTruncates : Prop :=
  ∀ key : List Byte,
    (∀ i < 64, (normKey key).getMsbD i = if i < 8 * key.length then (encodeBits key).getD i false else false) ∧
    normKey key = keep (be64 (key.take 8)) (min key.length 8)

/-- Each subkey bit is one key bit: bit j of `RK[i]` is found through `PC2`, the rotation by `CUM[i]` within its half, and `PC1`
(41_key_schedule.md section 3; the tables are general knowledge the spec supplies). -/
def Obligations.SubkeyBitsAreRotatedKeyBits : Prop :=
  ∀ (K : Block) (i : Fin 16) (j : Nat), j < 48 → (subkey K i).getMsbD j = K.getMsbD (keyBitIndex i j)

/-- The iterative key schedule, each half rotated by a further `SHIFT[i]` every round, gives the same sixteen subkeys as the closed
form with `CUM[i]` (41_key_schedule.md section 3, which marks it as derived). -/
def Obligations.IterativeKeyScheduleIsTheClosedForm : Prop :=
  ∀ (K : Block) (i : Fin 16), subkeyIterative K i = subkey K i

/-- The least significant bit of each key byte influences nothing: keys that differ only there have the same subkeys
(41_key_schedule.md section 4, which marks it as derived). -/
def Obligations.UnusedKeyBitsInfluenceNothing : Prop :=
  ∀ K K' : Block, (∀ i < 64, i % 8 ≠ 7 → K.getMsbD i = K'.getMsbD i) → ∀ i, subkey K i = subkey K' i

/-- A key whose halves are each all zeros or all ones has sixteen equal subkeys, and then encrypting and decrypting a block are the
same function (41_key_schedule.md section 4, which marks it as derived). -/
def Obligations.DegenerateKeysHaveEqualSubkeys : Prop :=
  ∀ K : Block, (halfC0 K = 0 ∨ halfC0 K = BitVec.allOnes 28) → (halfD0 K = 0 ∨ halfD0 K = BitVec.allOnes 28) →
    (∀ i j, subkey K i = subkey K j) ∧ ∀ X, blockEnc X (subkey K) = blockDec X (subkey K)

/-- Each output nibble is the table entry whose row is the outer bits and whose column the middle bits of its own 6-bit group, the
earlier bit the more significant (42_sbox_stage.md section 1; the order of the bits is general knowledge the spec supplies). -/
def Obligations.SubstituteLooksUpEachGroup : Prop :=
  ∀ (A : Subkey) (g : Fin 8),
    (slice (substitute A) (4 * g) 4).toNat =
      ((sboxOf g).rows.getD (2 * (A.getMsbD (6 * g)).toNat + (A.getMsbD (6 * g + 5)).toNat) []).getD
        (8 * (A.getMsbD (6 * g + 1)).toNat + 4 * (A.getMsbD (6 * g + 2)).toNat + 2 * (A.getMsbD (6 * g + 3)).toNat +
          (A.getMsbD (6 * g + 4)).toNat) 0

/-! ## The Feistel network (43_feistel_round.md) -/

/-- R141, R142, R143: for any sequence of halves that starts from the block's, left first, and makes the sixteen rounds
`L_(i+1) = R_i`, `R_(i+1) = L_i ^ roundFunction(R_i, k_i)` with `k_i = RK[i]` or, decrypting, `RK[15-i]`, the network's output
is `R_16 ‖ L_16`. -/
def Obligations.NetworkIsSixteenRoundsAndTheFinalSwap : Prop :=
  ∀ (B : Block) (rk : RoundKeys) (decrypting : Bool) (L R : Nat → Half),
    L 0 = B.extractLsb' 32 32 → R 0 = B.extractLsb' 0 32 →
    (∀ i : Fin 16, L (i.val + 1) = R i.val ∧
      R (i.val + 1) = L i.val ^^^ roundFunction (R i.val) (rk (if decrypting then 15 - i else i))) →
    feistelNetwork B rk decrypting = R 16 ++ L 16

/-- The network with reversed keys undoes the network, in both orders, for any sixteen subkeys (43_feistel_round.md section 2,
which marks it as derived). -/
def Obligations.NetworkIsInvertedByReversedKeys : Prop :=
  ∀ (B : Block) (rk : RoundKeys), feistelNetwork (feistelNetwork B rk false) rk true = B ∧
    feistelNetwork (feistelNetwork B rk true) rk false = B

/-- Load, sixteen micro-steps over the hidden `L`, `R`, `RND`, unload: the same as the network (43_feistel_round.md section 2). -/
def Obligations.MicroStepsAreTheNetwork : Prop :=
  ∀ (B : Block) (rk : RoundKeys) (decrypting : Bool), engineRun B rk decrypting = feistelNetwork B rk decrypting

/-- `blockDec` and `blockEnc` undo each other for any subkeys (43_feistel_round.md section 3, which marks it as derived). -/
def Obligations.BlockFunctionsAreInverse : Prop :=
  ∀ (X : Block) (rk : RoundKeys), blockDec (blockEnc X rk) rk = X ∧ blockEnc (blockDec X rk) rk = X

/-! ## Messages and the host's pseudo-operations (44_cbc_commands.md section 3, 46_facade_pseudo_ops.md) -/

/-- From any idle engine with a key and an IV: `START ENC, LEN` and `ceil(LEN/8)` `BLK`s, whatever the payloads, answer blocks
`C_k = blockEnc(P_k ^ C_(k-1))` with `C_(-1) = IV` and `P_k` the payload with the bytes beyond the length forced to zero; the
message then has ended (44_cbc_commands.md section 3, which marks it as derived). -/
def Obligations.EncryptionMessageFollowsTheChain : Prop :=
  ∀ (s : State) (len : BitVec 64) (ds : List Block), s.seq = .idle → s.kvalid = true → s.ivvalid = true →
    ds.length = (len.toNat + 7) / 8 →
    ∃ t Cs, issueAll (encode (.start 0 len) :: ds.map fun d => encode (.blk d)) s = (t, .ok Cs) ∧
      Cs.length = ds.length ∧ t.seq = .idle ∧ t.rem = 0 ∧
      EncryptsChain (subkey s.key) s.iv ds.length (fun k => keep (ds.getD k 0) (min (len.toNat - 8 * k) 8))
        (fun k => Cs.getD k 0)

/-- From any idle engine with a key and an IV: `START DEC, LEN` with `LEN` a multiple of 8, and `LEN/8` `BLK`s, answer
`P_k = blockDec(C_k) ^ C_(k-1)` with `C_(-1) = IV`; the message then has ended (44_cbc_commands.md section 3, which marks it as
derived). -/
def Obligations.DecryptionMessageFollowsTheChain : Prop :=
  ∀ (s : State) (len : BitVec 64) (cs : List Block), s.seq = .idle → s.kvalid = true → s.ivvalid = true →
    len.toNat % 8 = 0 → cs.length = len.toNat / 8 →
    ∃ t Ps, issueAll (encode (.start 1 len) :: cs.map fun c => encode (.blk c)) s = (t, .ok Ps) ∧
      Ps.length = cs.length ∧ t.seq = .idle ∧ t.rem = 0 ∧
      ∀ k < cs.length, Ps.getD k 0 =
        blockDec (cs.getD k 0) (subkey s.key) ^^^ (if k = 0 then s.iv else cs.getD (k - 1) 0)

/-- Changing one plaintext block leaves the ciphertext blocks before it and changes it and every later one
(46_facade_pseudo_ops.md section 2, which marks it as derived). -/
def Obligations.ChangedBlockDiffusesToTheEnd : Prop :=
  ∀ (rk : RoundKeys) (iv : Block) (n i : Nat) (P P' C C' : Nat → Block),
    EncryptsChain rk iv n P C → EncryptsChain rk iv n P' C' → i < n → P i ≠ P' i → (∀ k < n, k ≠ i → P k = P' k) →
    (∀ k < i, C k = C' k) ∧ ∀ k, i ≤ k → k < n → C k ≠ C' k

/-- R201: `SETKEY key` in `IDLE` loads `normKey(key)` for a key of any length of 1 or more, and is refused with
`InvalidKeyMaterial` for the empty key. -/
def Obligations.SetkeyLoadsTheNormalisedKey : Prop :=
  ∀ (s : State) (key : List Byte), s.seq = .idle →
    setKeyCmd key = mkCmd 0x01 (BitVec.ofNat 8 (min key.length 255)) (be64 (key.take (min key.length 8))) ∧
    step (s.present (.command (setKeyCmd key))) =
      if key = [] then .next (refusedState .invalidKeyMaterial s)
      else .next { s with key := normKey key, kvalid := true, resp := okResp }

/-- From any idle engine, `DECRYPT` of what `ENCRYPT` gives, under the same non-empty key and 8-byte IV, is the message followed by
`(8 - len mod 8) mod 8` zero bytes (46_facade_pseudo_ops.md section 2, which marks it as derived). The bound keeps the padded
length expressible (U16). -/
def Obligations.DecryptOfEncryptIsThePaddedMessage : Prop :=
  ∀ (m key iv : List Byte) (s : State), s.seq = .idle → key ≠ [] → iv.length = 8 → m.length ≤ 2 ^ 64 - 8 →
    ∃ c t u, encryptOp m key iv s = (t, .ok c) ∧ c.length = 8 * ((m.length + 7) / 8) ∧
      decryptOp c key iv t = (u, .ok (m ++ List.replicate ((8 - m.length % 8) % 8) 0))

/-- R216: `DECRYPT` of a ciphertext whose length is not a multiple of 8 bytes loads the key and the IV, is refused at `START` with
code 5, issues no `BLK` (`DOUT` and its flag stay) and returns nothing. -/
def Obligations.DecryptRefusesAMalformedLength : Prop :=
  ∀ (c key iv : List Byte) (s : State), s.seq = .idle → key ≠ [] → iv.length = 8 → c.length < 2 ^ 64 → c.length % 8 ≠ 0 →
    ∃ t, decryptOp c key iv s = (t, .error 0x85) ∧ t.err = some .malformedCiphertextLength ∧ t.seq = .idle ∧
      t.key = normKey key ∧ t.iv = be64 iv ∧ t.dout = s.dout ∧ t.ovalid = s.ovalid ∧ t.prev = s.prev

/-- The empty key stops `ENCRYPT` and `DECRYPT` at their first command with code 3, before any block is computed and with nothing
loaded (46_facade_pseudo_ops.md section 1). -/
def Obligations.EmptyKeyStopsThePseudoOperations : Prop :=
  ∀ (m iv : List Byte) (s : State), s.seq = .idle → iv.length = 8 → m.length < 2 ^ 64 →
    encryptOp m [] iv s = (refusedState .invalidKeyMaterial s, .error 0x83) ∧
    decryptOp m [] iv s = (refusedState .invalidKeyMaterial s, .error 0x83)

/-- `HEX` gives two digits a byte, high nibble first, and `UNHEX` takes it back in either letter case (46_facade_pseudo_ops.md
section 1; the letter case is the open parameter P1). -/
def Obligations.UnhexInvertsHex : Prop :=
  ∀ (c : HexCase) (bytes : List Byte), (hexText c bytes).length = 2 * bytes.length ∧
    unhexText (hexText c bytes) = some bytes ∧
    ∀ j < bytes.length, (hexText c bytes)[2 * j]? = (hexDigits c)[(bytes.getD j 0).toNat / 16]? ∧
      (hexText c bytes)[2 * j + 1]? = (hexDigits c)[(bytes.getD j 0).toNat % 16]?

/-- R202: `SETIV iv` expands to `LDIV be64(iv)` for an IV of exactly 8 bytes and to no command for any other length; issued in
`IDLE` it loads the IV, with a message open it is refused with `ProtocolError`. -/
def Obligations.SetivLoadsAnIvOfEightBytes : Prop :=
  (∀ (iv : List Byte) (w : Cmd), setIvCmd iv = some w ↔ iv.length = 8 ∧ w = mkCmd 0x02 0 (be64 iv)) ∧
  ∀ (iv : List Byte) (s : State), iv.length = 8 →
    (s.seq = .idle → setIvOp iv s = ({ s with iv := be64 iv, ivvalid := true, resp := okResp }, .ok [])) ∧
    (s.seq ≠ .idle → setIvOp iv s = (refusedState .protocolError s, .error 0x82))

/-- Where the spec does not define `SETIV` (an IV of another length than 8: nothing is padded, nothing cut), it, `ENCRYPT` and
`DECRYPT` issue no command and leave the engine as it was; the same for `ENCRYPT` and `DECRYPT` of a message of 2^64 bytes or more
(46_facade_pseudo_ops.md section 1, 93_implementation_defined.md U11, U16). That the answer is `notDefined` is the model's choice
(log 8). -/
def Obligations.UndefinedPseudoOperationsIssueNothing : Prop :=
  (∀ (iv : List Byte) (s : State), iv.length ≠ 8 → setIvOp iv s = (s, .notDefined)) ∧
  ∀ (m key iv : List Byte) (s : State), iv.length ≠ 8 ∨ 2 ^ 64 ≤ m.length →
    encryptOp m key iv s = (s, .notDefined) ∧ decryptOp m key iv s = (s, .notDefined)
end

