-- ==== Sys2Proof/Laws/Bits.lean ====
section
/-! SUPPORT. What each bit-vector operation of Machine/Bits.lean does, bit by bit, index 0 first. -/

namespace Sys2Proof.Machine

/-- A last bit becomes the units digit of the numeral. -/
theorem numBits_concat (bs : List Bool) (b : Bool) : numBits (bs ++ [b]) = 2 * numBits bs + b.toNat := by
  simp [numBits]

/-- The numeral's binary digits are the bits, the last one least significant. -/
theorem numBits_testBit (bs : List Bool) (i : Nat) : (numBits bs).testBit i = bs.reverse.getD i false := by
  induction bs using List.reverseRecOn generalizing i with
  | nil => simp [numBits]
  | append_singleton bs b ih =>
    rw [numBits_concat]
    cases i with
    | zero => cases b <;> simp [Nat.testBit_zero]
    | succ i =>
      have h : (2 * numBits bs + b.toNat) / 2 = numBits bs := by
        cases b
        · simp
        · simp; omega
      rw [Nat.testBit_succ, h, ih]
      simp

/-- A vector made of `n` bits has these bits, index 0 first (R10, R11). -/
theorem ofBits_getMsbD {n : Nat} {bs : List Bool} (h : bs.length = n) (i : Nat) :
    (ofBits n bs).getMsbD i = bs.getD i false := by
  subst h
  simp only [ofBits, BitVec.getMsbD, BitVec.getLsbD_ofNat, numBits_testBit]
  by_cases hi : i < bs.length
  · have h1 : bs.length - 1 - i < bs.length := by omega
    have h2 : bs.length - 1 - (bs.length - 1 - i) = i := by omega
    simp [hi, h1, h2, List.getElem_reverse]
  · simp [hi]

/-- `toBits` lists the bits, index 0 first. -/
theorem toBits_getD {n : Nat} (v : BitVec n) (i : Nat) : (toBits v).getD i false = v.getMsbD i := by
  by_cases hi : i < n
  · simp [toBits, hi]
  · simp [toBits, hi, BitVec.getMsbD]

@[simp] theorem toBits_length {n : Nat} (v : BitVec n) : (toBits v).length = n := by simp [toBits]

/-- `v{i .. i+len-1}` has the bits `v[i+j]` (R10). -/
theorem slice_getMsbD {n : Nat} (v : BitVec n) {i len : Nat} (h : i + len ≤ n) (j : Nat) :
    (slice v i len).getMsbD j = (decide (j < len) && v.getMsbD (i + j)) := by
  by_cases hj : j < len
  · have h1 : len - 1 - j < len := by omega
    have h2 : i + j < n := by omega
    have h3 : n - i - len + (len - 1 - j) = n - 1 - (i + j) := by omega
    simp [slice, BitVec.getMsbD, hj, h1, h2, h3]
  · simp [slice, BitVec.getMsbD, hj]

/-- `rotl(v, s)[i] = v[(i + s) mod n]` (R13). -/
theorem rotl_getMsbD {n : Nat} (v : BitVec n) {s i : Nat} (hi : i < n) :
    (rotl v s).getMsbD i = v.getMsbD ((i + s) % n) := by
  rw [rotl, BitVec.getMsbD_rotateLeft]
  simp [hi, Nat.add_comm]

/-- `keep(v, n)` keeps the bits below `8n` and clears the others (R13). -/
theorem keep_getMsbD (v : Block) {n : Nat} (h : n ≤ 8) (i : Nat) :
    (keep v n).getMsbD i = (decide (i < 8 * n) && v.getMsbD i) := by
  rw [keep, BitVec.getMsbD_shiftLeft, BitVec.getMsbD_ushiftRight]
  by_cases hi : i < 8 * n
  · have h2 : i + (64 - 8 * n) < 64 := by omega
    simp [h2, hi]
  · by_cases h64 : i < 64
    · have h2 : ¬ (i + (64 - 8 * n) < 64) := by omega
      simp [h2, hi]
    · simp [hi, BitVec.getMsbD, h64]

/-- Eight bytes are the whole block (R13). -/
@[simp] theorem keep_eight (v : Block) : keep v 8 = v := by simp [keep]

/-- `byte_j(v)` has the bits `v[8j + t]` (R13). -/
theorem byteAt_getMsbD (v : Block) {j : Nat} (h : j < 8) (t : Nat) :
    (byteAt v j).getMsbD t = (decide (t < 8) && v.getMsbD (8 * j + t)) :=
  slice_getMsbD v (by omega) t

/-! ## Concatenations of groups of one length -/

/-- Groups of `n` make `n` times as many. -/
theorem length_flatMap_of_groups {α β : Type} {f : α → List β} {n : Nat} (hf : ∀ a, (f a).length = n) (l : List α) :
    (l.flatMap f).length = n * l.length := by
  induction l with
  | nil => simp
  | cons a l ih => simp [List.flatMap_cons, hf, ih, Nat.mul_succ, Nat.add_comm]

/-- Entry `n * j + t` of a concatenation of groups of `n` is entry `t` of group `j`. -/
theorem getElem?_flatMap_of_groups {α β : Type} {f : α → List β} {n : Nat} (hf : ∀ a, (f a).length = n) (l : List α) (j : Nat)
    {t : Nat} (ht : t < n) : (l.flatMap f)[n * j + t]? = l[j]?.bind fun a => (f a)[t]? := by
  induction l generalizing j with
  | nil => simp
  | cons a l ih =>
    rw [List.flatMap_cons]
    cases j with
    | zero => simp [List.getElem?_append, hf, ht]
    | succ j =>
      have h1 : n * (j + 1) + t - n = n * j + t := by rw [Nat.mul_succ]; omega
      have h2 : n ≤ n * (j + 1) + t := by rw [Nat.mul_succ]; omega
      rw [List.getElem?_append_right (by rw [hf]; exact h2), hf, h1, ih]
      simp

end Sys2Proof.Machine
end

