-- ==== Sys2Proof/Laws/Decode.lean ====
section
/-! SUPPORT. The fields of an assembled command word, and what the decoder's parts answer. -/

namespace Sys2Proof

/-- The bits of an assembled command word (R70, R77). -/
theorem mkCmd_getLsbD (op arg : BitVec 8) (payload : BitVec 64) (i : Nat) :
    (mkCmd op arg payload).getLsbD i =
      if i < 64 then payload.getLsbD i else if i - 64 < 8 then arg.getLsbD (i - 64) else op.getLsbD (i - 64 - 8) := by
  have h : (mkCmd op arg payload).getLsbD i = (op ++ arg ++ payload : BitVec (8 + 8 + 64)).getLsbD i := rfl
  rw [h, BitVec.getLsbD_append, BitVec.getLsbD_append]

@[simp] theorem cmdOp_mkCmd (op arg : BitVec 8) (payload : BitVec 64) : cmdOp (mkCmd op arg payload) = op := by
  apply BitVec.eq_of_getLsbD_eq
  intro i hi
  have h2 : ¬ (72 + i < 64) := by omega
  have h4 : ¬ (72 + i - 64 < 8) := by omega
  have h3 : 72 + i - 64 - 8 = i := by omega
  simp [cmdOp, mkCmd_getLsbD, hi, h2, h4, h3]

@[simp] theorem cmdArg_mkCmd (op arg : BitVec 8) (payload : BitVec 64) : cmdArg (mkCmd op arg payload) = arg := by
  apply BitVec.eq_of_getLsbD_eq
  intro i hi
  simp [cmdArg, mkCmd_getLsbD, hi]

@[simp] theorem cmdPayload_mkCmd (op arg : BitVec 8) (payload : BitVec 64) : cmdPayload (mkCmd op arg payload) = payload := by
  apply BitVec.eq_of_getLsbD_eq
  intro i hi
  simp [cmdPayload, mkCmd_getLsbD, hi]

/-- A command word is assembled from its three fields (R70, R77). -/
theorem mkCmd_fields (c : Cmd) : mkCmd (cmdOp c) (cmdArg c) (cmdPayload c) = c := by
  apply BitVec.eq_of_getLsbD_eq
  intro i hi
  rw [mkCmd_getLsbD]
  by_cases h1 : i < 64
  · simp [cmdPayload, h1]
  · by_cases h2 : i - 64 < 8
    · have h3 : 64 + (i - 64) = i := by omega
      simp [cmdArg, h1, h2, h3]
    · have h3 : 72 + (i - 64 - 8) = i := by omega
      have h4 : i - 64 - 8 < 8 := by omega
      simp [cmdOp, h1, h2, h3, h4]

/-- A mask works field by field. -/
theorem mkCmd_and (op op' arg arg' : BitVec 8) (payload payload' : BitVec 64) :
    mkCmd op arg payload &&& mkCmd op' arg' payload' = mkCmd (op &&& op') (arg &&& arg') (payload &&& payload') := by
  apply BitVec.eq_of_getLsbD_eq
  intro i hi
  simp only [BitVec.getLsbD_and, mkCmd_getLsbD]
  split
  · rfl
  · split <;> rfl

/-- Decoding an assembled word is decoding its fields. -/
@[simp] theorem decode_mkCmd (op arg : BitVec 8) (payload : BitVec 64) :
    decode (mkCmd op arg payload) = decodeFields op arg payload := by
  simp [decode]

/-- What `decodeBare` answers (R74 step 2). -/
theorem decodeBare_eq_command {i j : Instr} {arg : BitVec 8} {payload : BitVec 64} :
    decodeBare i arg payload = .command j ↔ arg = 0#8 ∧ payload = 0#64 ∧ i = j := by
  unfold decodeBare
  split <;> simp_all

/-- What `decodePayloadOnly` answers (R74 step 2). -/
theorem decodePayloadOnly_eq_command {i j : Instr} {arg : BitVec 8} :
    decodePayloadOnly i arg = .command j ↔ arg = 0#8 ∧ i = j := by
  unfold decodePayloadOnly
  split <;> simp_all

/-- What `decodeStart` answers (R74 step 2). -/
theorem decodeStart_eq_command {j : Instr} {arg : BitVec 8} {payload : BitVec 64} :
    decodeStart arg payload = .command j ↔ arg ≤ 1#8 ∧ Instr.start arg payload = j := by
  unfold decodeStart
  split <;> simp_all

end Sys2Proof
end

