-- ==== Sys2Proof/Laws/State.lean ====
section
/-! SUPPORT. What each named operation on the state does to each field, so that no proof unfolds a record update. -/

namespace Sys2Proof.Machine.State

/-! ## respond -/

@[simp] theorem respond_key (s : State) (rcode : BitVec 8) (rdata : BitVec 64) : (s.respond rcode rdata).key = s.key := rfl
@[simp] theorem respond_kvalid (s : State) (rcode : BitVec 8) (rdata : BitVec 64) : (s.respond rcode rdata).kvalid = s.kvalid := rfl
@[simp] theorem respond_iv (s : State) (rcode : BitVec 8) (rdata : BitVec 64) : (s.respond rcode rdata).iv = s.iv := rfl
@[simp] theorem respond_ivvalid (s : State) (rcode : BitVec 8) (rdata : BitVec 64) : (s.respond rcode rdata).ivvalid = s.ivvalid := rfl
@[simp] theorem respond_prev (s : State) (rcode : BitVec 8) (rdata : BitVec 64) : (s.respond rcode rdata).prev = s.prev := rfl
@[simp] theorem respond_dout (s : State) (rcode : BitVec 8) (rdata : BitVec 64) : (s.respond rcode rdata).dout = s.dout := rfl
@[simp] theorem respond_ovalid (s : State) (rcode : BitVec 8) (rdata : BitVec 64) : (s.respond rcode rdata).ovalid = s.ovalid := rfl
@[simp] theorem respond_seq (s : State) (rcode : BitVec 8) (rdata : BitVec 64) : (s.respond rcode rdata).seq = s.seq := rfl
@[simp] theorem respond_rem (s : State) (rcode : BitVec 8) (rdata : BitVec 64) : (s.respond rcode rdata).rem = s.rem := rfl
@[simp] theorem respond_err (s : State) (rcode : BitVec 8) (rdata : BitVec 64) : (s.respond rcode rdata).err = s.err := rfl
@[simp] theorem respond_resp (s : State) (rcode : BitVec 8) (rdata : BitVec 64) : (s.respond rcode rdata).resp = some (mkResp rcode rdata) := rfl
@[simp] theorem respond_script (s : State) (rcode : BitVec 8) (rdata : BitVec 64) : (s.respond rcode rdata).script = s.script := rfl
@[simp] theorem respond_rk (s : State) (rcode : BitVec 8) (rdata : BitVec 64) : (s.respond rcode rdata).rk = s.rk := rfl

/-! ## respondOk -/

@[simp] theorem respondOk_key (s : State) : (s.respondOk).key = s.key := rfl
@[simp] theorem respondOk_kvalid (s : State) : (s.respondOk).kvalid = s.kvalid := rfl
@[simp] theorem respondOk_iv (s : State) : (s.respondOk).iv = s.iv := rfl
@[simp] theorem respondOk_ivvalid (s : State) : (s.respondOk).ivvalid = s.ivvalid := rfl
@[simp] theorem respondOk_prev (s : State) : (s.respondOk).prev = s.prev := rfl
@[simp] theorem respondOk_dout (s : State) : (s.respondOk).dout = s.dout := rfl
@[simp] theorem respondOk_ovalid (s : State) : (s.respondOk).ovalid = s.ovalid := rfl
@[simp] theorem respondOk_seq (s : State) : (s.respondOk).seq = s.seq := rfl
@[simp] theorem respondOk_rem (s : State) : (s.respondOk).rem = s.rem := rfl
@[simp] theorem respondOk_err (s : State) : (s.respondOk).err = s.err := rfl
@[simp] theorem respondOk_resp (s : State) : (s.respondOk).resp = some (mkResp rcodeOk 0) := rfl
@[simp] theorem respondOk_script (s : State) : (s.respondOk).script = s.script := rfl
@[simp] theorem respondOk_rk (s : State) : (s.respondOk).rk = s.rk := rfl

/-! ## respondData -/

@[simp] theorem respondData_key (s : State) (rdata : BitVec 64) : (s.respondData rdata).key = s.key := rfl
@[simp] theorem respondData_kvalid (s : State) (rdata : BitVec 64) : (s.respondData rdata).kvalid = s.kvalid := rfl
@[simp] theorem respondData_iv (s : State) (rdata : BitVec 64) : (s.respondData rdata).iv = s.iv := rfl
@[simp] theorem respondData_ivvalid (s : State) (rdata : BitVec 64) : (s.respondData rdata).ivvalid = s.ivvalid := rfl
@[simp] theorem respondData_prev (s : State) (rdata : BitVec 64) : (s.respondData rdata).prev = s.prev := rfl
@[simp] theorem respondData_dout (s : State) (rdata : BitVec 64) : (s.respondData rdata).dout = s.dout := rfl
@[simp] theorem respondData_ovalid (s : State) (rdata : BitVec 64) : (s.respondData rdata).ovalid = s.ovalid := rfl
@[simp] theorem respondData_seq (s : State) (rdata : BitVec 64) : (s.respondData rdata).seq = s.seq := rfl
@[simp] theorem respondData_rem (s : State) (rdata : BitVec 64) : (s.respondData rdata).rem = s.rem := rfl
@[simp] theorem respondData_err (s : State) (rdata : BitVec 64) : (s.respondData rdata).err = s.err := rfl
@[simp] theorem respondData_resp (s : State) (rdata : BitVec 64) : (s.respondData rdata).resp = some (mkResp rcodeOkData rdata) := rfl
@[simp] theorem respondData_script (s : State) (rdata : BitVec 64) : (s.respondData rdata).script = s.script := rfl
@[simp] theorem respondData_rk (s : State) (rdata : BitVec 64) : (s.respondData rdata).rk = s.rk := rfl

/-! ## raise -/

@[simp] theorem raise_key (s : State) (e : Exc) : (s.raise e).key = s.key := rfl
@[simp] theorem raise_kvalid (s : State) (e : Exc) : (s.raise e).kvalid = s.kvalid := rfl
@[simp] theorem raise_iv (s : State) (e : Exc) : (s.raise e).iv = s.iv := rfl
@[simp] theorem raise_ivvalid (s : State) (e : Exc) : (s.raise e).ivvalid = s.ivvalid := rfl
@[simp] theorem raise_prev (s : State) (e : Exc) : (s.raise e).prev = s.prev := rfl
@[simp] theorem raise_dout (s : State) (e : Exc) : (s.raise e).dout = s.dout := rfl
@[simp] theorem raise_ovalid (s : State) (e : Exc) : (s.raise e).ovalid = s.ovalid := rfl
@[simp] theorem raise_seq (s : State) (e : Exc) : (s.raise e).seq = s.seq := rfl
@[simp] theorem raise_rem (s : State) (e : Exc) : (s.raise e).rem = s.rem := rfl
@[simp] theorem raise_err (s : State) (e : Exc) : (s.raise e).err = some e := rfl
@[simp] theorem raise_resp (s : State) (e : Exc) : (s.raise e).resp = some (mkResp (rcodeError e) 0) := rfl
@[simp] theorem raise_script (s : State) (e : Exc) : (s.raise e).script = s.script := rfl
@[simp] theorem raise_rk (s : State) (e : Exc) : (s.raise e).rk = s.rk := rfl

/-! ## clearErr -/

@[simp] theorem clearErr_key (s : State) : (s.clearErr).key = s.key := rfl
@[simp] theorem clearErr_kvalid (s : State) : (s.clearErr).kvalid = s.kvalid := rfl
@[simp] theorem clearErr_iv (s : State) : (s.clearErr).iv = s.iv := rfl
@[simp] theorem clearErr_ivvalid (s : State) : (s.clearErr).ivvalid = s.ivvalid := rfl
@[simp] theorem clearErr_prev (s : State) : (s.clearErr).prev = s.prev := rfl
@[simp] theorem clearErr_dout (s : State) : (s.clearErr).dout = s.dout := rfl
@[simp] theorem clearErr_ovalid (s : State) : (s.clearErr).ovalid = s.ovalid := rfl
@[simp] theorem clearErr_seq (s : State) : (s.clearErr).seq = s.seq := rfl
@[simp] theorem clearErr_rem (s : State) : (s.clearErr).rem = s.rem := rfl
@[simp] theorem clearErr_err (s : State) : (s.clearErr).err = none := rfl
@[simp] theorem clearErr_resp (s : State) : (s.clearErr).resp = s.resp := rfl
@[simp] theorem clearErr_script (s : State) : (s.clearErr).script = s.script := rfl
@[simp] theorem clearErr_rk (s : State) : (s.clearErr).rk = s.rk := rfl

/-! ## loadKey -/

@[simp] theorem loadKey_key (s : State) (k : Block) : (s.loadKey k).key = k := rfl
@[simp] theorem loadKey_kvalid (s : State) (k : Block) : (s.loadKey k).kvalid = true := rfl
@[simp] theorem loadKey_iv (s : State) (k : Block) : (s.loadKey k).iv = s.iv := rfl
@[simp] theorem loadKey_ivvalid (s : State) (k : Block) : (s.loadKey k).ivvalid = s.ivvalid := rfl
@[simp] theorem loadKey_prev (s : State) (k : Block) : (s.loadKey k).prev = s.prev := rfl
@[simp] theorem loadKey_dout (s : State) (k : Block) : (s.loadKey k).dout = s.dout := rfl
@[simp] theorem loadKey_ovalid (s : State) (k : Block) : (s.loadKey k).ovalid = s.ovalid := rfl
@[simp] theorem loadKey_seq (s : State) (k : Block) : (s.loadKey k).seq = s.seq := rfl
@[simp] theorem loadKey_rem (s : State) (k : Block) : (s.loadKey k).rem = s.rem := rfl
@[simp] theorem loadKey_err (s : State) (k : Block) : (s.loadKey k).err = s.err := rfl
@[simp] theorem loadKey_resp (s : State) (k : Block) : (s.loadKey k).resp = s.resp := rfl
@[simp] theorem loadKey_script (s : State) (k : Block) : (s.loadKey k).script = s.script := rfl

/-! ## loadIv -/

@[simp] theorem loadIv_key (s : State) (v : Block) : (s.loadIv v).key = s.key := rfl
@[simp] theorem loadIv_kvalid (s : State) (v : Block) : (s.loadIv v).kvalid = s.kvalid := rfl
@[simp] theorem loadIv_iv (s : State) (v : Block) : (s.loadIv v).iv = v := rfl
@[simp] theorem loadIv_ivvalid (s : State) (v : Block) : (s.loadIv v).ivvalid = true := rfl
@[simp] theorem loadIv_prev (s : State) (v : Block) : (s.loadIv v).prev = s.prev := rfl
@[simp] theorem loadIv_dout (s : State) (v : Block) : (s.loadIv v).dout = s.dout := rfl
@[simp] theorem loadIv_ovalid (s : State) (v : Block) : (s.loadIv v).ovalid = s.ovalid := rfl
@[simp] theorem loadIv_seq (s : State) (v : Block) : (s.loadIv v).seq = s.seq := rfl
@[simp] theorem loadIv_rem (s : State) (v : Block) : (s.loadIv v).rem = s.rem := rfl
@[simp] theorem loadIv_err (s : State) (v : Block) : (s.loadIv v).err = s.err := rfl
@[simp] theorem loadIv_resp (s : State) (v : Block) : (s.loadIv v).resp = s.resp := rfl
@[simp] theorem loadIv_script (s : State) (v : Block) : (s.loadIv v).script = s.script := rfl
@[simp] theorem loadIv_rk (s : State) (v : Block) : (s.loadIv v).rk = s.rk := rfl

/-! ## openMessage -/

@[simp] theorem openMessage_key (s : State) (q : Seq) (len : BitVec 64) : (s.openMessage q len).key = s.key := rfl
@[simp] theorem openMessage_kvalid (s : State) (q : Seq) (len : BitVec 64) : (s.openMessage q len).kvalid = s.kvalid := rfl
@[simp] theorem openMessage_iv (s : State) (q : Seq) (len : BitVec 64) : (s.openMessage q len).iv = s.iv := rfl
@[simp] theorem openMessage_ivvalid (s : State) (q : Seq) (len : BitVec 64) : (s.openMessage q len).ivvalid = s.ivvalid := rfl
@[simp] theorem openMessage_prev (s : State) (q : Seq) (len : BitVec 64) : (s.openMessage q len).prev = s.iv := rfl
@[simp] theorem openMessage_dout (s : State) (q : Seq) (len : BitVec 64) : (s.openMessage q len).dout = s.dout := rfl
@[simp] theorem openMessage_ovalid (s : State) (q : Seq) (len : BitVec 64) : (s.openMessage q len).ovalid = false := rfl
@[simp] theorem openMessage_seq (s : State) (q : Seq) (len : BitVec 64) : (s.openMessage q len).seq = q := rfl
@[simp] theorem openMessage_rem (s : State) (q : Seq) (len : BitVec 64) : (s.openMessage q len).rem = len := rfl
@[simp] theorem openMessage_err (s : State) (q : Seq) (len : BitVec 64) : (s.openMessage q len).err = s.err := rfl
@[simp] theorem openMessage_resp (s : State) (q : Seq) (len : BitVec 64) : (s.openMessage q len).resp = s.resp := rfl
@[simp] theorem openMessage_script (s : State) (q : Seq) (len : BitVec 64) : (s.openMessage q len).script = s.script := rfl
@[simp] theorem openMessage_rk (s : State) (q : Seq) (len : BitVec 64) : (s.openMessage q len).rk = s.rk := rfl

/-! ## chainStep -/

@[simp] theorem chainStep_key (s : State) (out chain : Block) (n : Nat) : (s.chainStep out chain n).key = s.key := rfl
@[simp] theorem chainStep_kvalid (s : State) (out chain : Block) (n : Nat) : (s.chainStep out chain n).kvalid = s.kvalid := rfl
@[simp] theorem chainStep_iv (s : State) (out chain : Block) (n : Nat) : (s.chainStep out chain n).iv = s.iv := rfl
@[simp] theorem chainStep_ivvalid (s : State) (out chain : Block) (n : Nat) : (s.chainStep out chain n).ivvalid = s.ivvalid := rfl
@[simp] theorem chainStep_prev (s : State) (out chain : Block) (n : Nat) : (s.chainStep out chain n).prev = chain := rfl
@[simp] theorem chainStep_dout (s : State) (out chain : Block) (n : Nat) : (s.chainStep out chain n).dout = out := rfl
@[simp] theorem chainStep_ovalid (s : State) (out chain : Block) (n : Nat) : (s.chainStep out chain n).ovalid = true := rfl
@[simp] theorem chainStep_seq (s : State) (out chain : Block) (n : Nat) : (s.chainStep out chain n).seq = if s.rem.toNat - n = 0 then .idle else s.seq := rfl
@[simp] theorem chainStep_rem (s : State) (out chain : Block) (n : Nat) : (s.chainStep out chain n).rem = BitVec.ofNat 64 (s.rem.toNat - n) := rfl
@[simp] theorem chainStep_err (s : State) (out chain : Block) (n : Nat) : (s.chainStep out chain n).err = s.err := rfl
@[simp] theorem chainStep_resp (s : State) (out chain : Block) (n : Nat) : (s.chainStep out chain n).resp = s.resp := rfl
@[simp] theorem chainStep_script (s : State) (out chain : Block) (n : Nat) : (s.chainStep out chain n).script = s.script := rfl
@[simp] theorem chainStep_rk (s : State) (out chain : Block) (n : Nat) : (s.chainStep out chain n).rk = s.rk := rfl

/-- The subtraction never wraps (R30). -/
theorem chainStep_rem_toNat (s : State) (out chain : Block) (n : Nat) :
    (s.chainStep out chain n).rem.toNat = s.rem.toNat - n := by
  have h := s.rem.isLt
  rw [chainStep_rem, BitVec.toNat_ofNat, Nat.mod_eq_of_lt (by omega)]

/-- The message ends exactly when no byte is left (R161, R164). -/
theorem chainStep_seq_cases (s : State) (out chain : Block) (n : Nat) :
    (s.chainStep out chain n).seq = if (s.chainStep out chain n).rem = 0 then .idle else s.seq := by
  have h : (s.chainStep out chain n).rem = 0 ↔ s.rem.toNat - n = 0 := by
    rw [← BitVec.toNat_inj, chainStep_rem_toNat]
    simp
  simp only [h, chainStep_seq]

/-! ## dropMessage -/

@[simp] theorem dropMessage_key (s : State) : (s.dropMessage).key = s.key := rfl
@[simp] theorem dropMessage_kvalid (s : State) : (s.dropMessage).kvalid = s.kvalid := rfl
@[simp] theorem dropMessage_iv (s : State) : (s.dropMessage).iv = s.iv := rfl
@[simp] theorem dropMessage_ivvalid (s : State) : (s.dropMessage).ivvalid = s.ivvalid := rfl
@[simp] theorem dropMessage_prev (s : State) : (s.dropMessage).prev = s.prev := rfl
@[simp] theorem dropMessage_dout (s : State) : (s.dropMessage).dout = s.dout := rfl
@[simp] theorem dropMessage_ovalid (s : State) : (s.dropMessage).ovalid = false := rfl
@[simp] theorem dropMessage_seq (s : State) : (s.dropMessage).seq = .idle := rfl
@[simp] theorem dropMessage_rem (s : State) : (s.dropMessage).rem = 0 := rfl
@[simp] theorem dropMessage_err (s : State) : (s.dropMessage).err = s.err := rfl
@[simp] theorem dropMessage_resp (s : State) : (s.dropMessage).resp = s.resp := rfl
@[simp] theorem dropMessage_script (s : State) : (s.dropMessage).script = s.script := rfl
@[simp] theorem dropMessage_rk (s : State) : (s.dropMessage).rk = s.rk := rfl

/-! ## present -/

@[simp] theorem present_key (s : State) (ev : HostEvent) : (s.present ev).key = s.key := rfl
@[simp] theorem present_kvalid (s : State) (ev : HostEvent) : (s.present ev).kvalid = s.kvalid := rfl
@[simp] theorem present_iv (s : State) (ev : HostEvent) : (s.present ev).iv = s.iv := rfl
@[simp] theorem present_ivvalid (s : State) (ev : HostEvent) : (s.present ev).ivvalid = s.ivvalid := rfl
@[simp] theorem present_prev (s : State) (ev : HostEvent) : (s.present ev).prev = s.prev := rfl
@[simp] theorem present_dout (s : State) (ev : HostEvent) : (s.present ev).dout = s.dout := rfl
@[simp] theorem present_ovalid (s : State) (ev : HostEvent) : (s.present ev).ovalid = s.ovalid := rfl
@[simp] theorem present_seq (s : State) (ev : HostEvent) : (s.present ev).seq = s.seq := rfl
@[simp] theorem present_rem (s : State) (ev : HostEvent) : (s.present ev).rem = s.rem := rfl
@[simp] theorem present_err (s : State) (ev : HostEvent) : (s.present ev).err = s.err := rfl
@[simp] theorem present_resp (s : State) (ev : HostEvent) : (s.present ev).resp = s.resp := rfl
@[simp] theorem present_script (s : State) (ev : HostEvent) : (s.present ev).script = ev :: s.script := rfl
@[simp] theorem present_rk (s : State) (ev : HostEvent) : (s.present ev).rk = s.rk := rfl

/-! ## setScript -/

@[simp] theorem setScript_key (s : State) (rest : List HostEvent) : (s.setScript rest).key = s.key := rfl
@[simp] theorem setScript_kvalid (s : State) (rest : List HostEvent) : (s.setScript rest).kvalid = s.kvalid := rfl
@[simp] theorem setScript_iv (s : State) (rest : List HostEvent) : (s.setScript rest).iv = s.iv := rfl
@[simp] theorem setScript_ivvalid (s : State) (rest : List HostEvent) : (s.setScript rest).ivvalid = s.ivvalid := rfl
@[simp] theorem setScript_prev (s : State) (rest : List HostEvent) : (s.setScript rest).prev = s.prev := rfl
@[simp] theorem setScript_dout (s : State) (rest : List HostEvent) : (s.setScript rest).dout = s.dout := rfl
@[simp] theorem setScript_ovalid (s : State) (rest : List HostEvent) : (s.setScript rest).ovalid = s.ovalid := rfl
@[simp] theorem setScript_seq (s : State) (rest : List HostEvent) : (s.setScript rest).seq = s.seq := rfl
@[simp] theorem setScript_rem (s : State) (rest : List HostEvent) : (s.setScript rest).rem = s.rem := rfl
@[simp] theorem setScript_err (s : State) (rest : List HostEvent) : (s.setScript rest).err = s.err := rfl
@[simp] theorem setScript_resp (s : State) (rest : List HostEvent) : (s.setScript rest).resp = s.resp := rfl
@[simp] theorem setScript_script (s : State) (rest : List HostEvent) : (s.setScript rest).script = rest := rfl
@[simp] theorem setScript_rk (s : State) (rest : List HostEvent) : (s.setScript rest).rk = s.rk := rfl

/-! ## resetEvent -/

@[simp] theorem resetEvent_key (s : State) : (s.resetEvent).key = 0 := rfl
@[simp] theorem resetEvent_kvalid (s : State) : (s.resetEvent).kvalid = false := rfl
@[simp] theorem resetEvent_iv (s : State) : (s.resetEvent).iv = 0 := rfl
@[simp] theorem resetEvent_ivvalid (s : State) : (s.resetEvent).ivvalid = false := rfl
@[simp] theorem resetEvent_prev (s : State) : (s.resetEvent).prev = 0 := rfl
@[simp] theorem resetEvent_dout (s : State) : (s.resetEvent).dout = 0 := rfl
@[simp] theorem resetEvent_ovalid (s : State) : (s.resetEvent).ovalid = false := rfl
@[simp] theorem resetEvent_seq (s : State) : (s.resetEvent).seq = .idle := rfl
@[simp] theorem resetEvent_rem (s : State) : (s.resetEvent).rem = 0 := rfl
@[simp] theorem resetEvent_err (s : State) : (s.resetEvent).err = none := rfl
@[simp] theorem resetEvent_resp (s : State) : (s.resetEvent).resp = none := rfl
@[simp] theorem resetEvent_script (s : State) : (s.resetEvent).script = s.script := rfl

end Sys2Proof.Machine.State
end

