-- ==== Sys2Proof/Laws/Exec.lean ====
section
/-! SUPPORT. Everything a command, a word and a step can do, said once: each meaning's answer by cases, and the inversion of `step`. -/

namespace Sys2Proof.Machine

/-! ## The meanings by cases -/

/-- Everything `LDKEY` can do (R112). -/
theorem execLdkey_cases {n : BitVec 8} {key : Block} {s t : State} (h : execLdkey n key s = .next t) :
    (s.seq ≠ .idle ∧ t = s.raise .protocolError) ∨
    (s.seq = .idle ∧ n = 0#8 ∧ t = s.raise .invalidKeyMaterial) ∨
    (s.seq = .idle ∧ n ≠ 0#8 ∧ t = (s.loadKey (keyOperand n key)).respondOk) := by
  unfold execLdkey at h
  split at h
  · simp_all
  · split at h <;> simp_all

/-- Everything `LDIV` can do (R162). -/
theorem execLdiv_cases {iv : Block} {s t : State} (h : execLdiv iv s = .next t) :
    (s.seq ≠ .idle ∧ t = s.raise .protocolError) ∨ (s.seq = .idle ∧ t = (s.loadIv iv).respondOk) := by
  unfold execLdiv at h
  split at h <;> simp_all

/-- Everything `START` can do (R163). -/
theorem execStart_cases {mode : BitVec 8} {len : BitVec 64} {s t : State} (h : execStart mode len s = .next t) :
    (1#8 < mode ∧ t = s.raise .illegalCommand) ∨
    (mode ≤ 1#8 ∧ s.seq ≠ .idle ∧ t = s.raise .protocolError) ∨
    (mode ≤ 1#8 ∧ s.seq = .idle ∧ s.kvalid = false ∧ t = s.raise .invalidKeyMaterial) ∨
    (mode ≤ 1#8 ∧ s.seq = .idle ∧ s.kvalid = true ∧ s.ivvalid = false ∧ t = s.raise .missingIv) ∨
    (mode = 1#8 ∧ s.seq = .idle ∧ s.kvalid = true ∧ s.ivvalid = true ∧ lengthMalformed len = true ∧
      t = s.raise .malformedCiphertextLength) ∨
    (mode ≤ 1#8 ∧ s.seq = .idle ∧ s.kvalid = true ∧ s.ivvalid = true ∧ (mode = 1#8 → lengthMalformed len = false) ∧
      t = (s.openMessage (openedSeq mode len) len).respondOk) := by
  unfold execStart at h
  split at h
  · simp_all
  · rename_i hm
    have hm' : mode ≤ 1#8 := by simpa using hm
    split at h
    · simp_all
    · split at h
      · simp_all
      · split at h
        · simp_all
        · split at h <;> simp_all

/-- Everything `BLK` can do (R164). -/
theorem execBlk_cases {data : Block} {s t : State} (h : execBlk data s = .next t) :
    (s.seq = .idle ∧ t = s.raise .protocolError) ∨
    (s.seq = .enc ∧
      t = (s.chainStep (encOutput data s) (encOutput data s) (encBytes s)).respondData (encOutput data s)) ∨
    (s.seq = .dec ∧ t = (s.chainStep (decOutput data s) data Config.blockBytes).respondData (decOutput data s)) := by
  unfold execBlk at h
  split at h <;> simp_all

/-- Everything `RDOUT` can do (R168). -/
theorem execRdout_cases {s t : State} (h : execRdout s = .next t) :
    (s.ovalid = false ∧ t = s.raise .outputNotValid) ∨ (s.ovalid = true ∧ t = s.respondData s.dout) := by
  unfold execRdout at h
  split at h <;> simp_all

/-! ## exec and executeWord -/

/-- Every command reaches a next state (R270). -/
theorem exec_next (i : Instr) (s : State) : ∃ t, exec i s = .next t := by
  cases i <;> simp only [exec, execNop, execLdkey, execLdiv, execStart, execBlk, execAbort, execRdout, execRdstat,
    execRdrem, execClrerr]
  case blk => cases s.seq <;> exact ⟨_, rfl⟩
  all_goals repeat (first | exact ⟨_, rfl⟩ | split)

/-- No command touches the host's coming moves. -/
theorem exec_script {i : Instr} {s t : State} (h : exec i s = .next t) : t.script = s.script := by
  cases i with
  | ldkey n key => rcases execLdkey_cases h with ⟨_, rfl⟩ | ⟨_, _, rfl⟩ | ⟨_, _, rfl⟩ <;> rfl
  | ldiv iv => rcases execLdiv_cases h with ⟨_, rfl⟩ | ⟨_, rfl⟩ <;> rfl
  | start mode len =>
    rcases execStart_cases h with ⟨_, rfl⟩ | ⟨_, _, rfl⟩ | ⟨_, _, _, rfl⟩ | ⟨_, _, _, _, rfl⟩ | ⟨_, _, _, _, _, rfl⟩ |
      ⟨_, _, _, _, _, rfl⟩ <;> rfl
  | blk data => rcases execBlk_cases h with ⟨_, rfl⟩ | ⟨_, rfl⟩ | ⟨_, rfl⟩ <;> rfl
  | rdout => rcases execRdout_cases h with ⟨_, rfl⟩ | ⟨_, rfl⟩ <;> rfl
  | nop => cases h; rfl
  | abort => cases h; rfl
  | rdstat => cases h; rfl
  | rdrem => cases h; rfl
  | clrerr => cases h; rfl

/-- What a word does: its command's meaning, or the refusal of an illegal word (R74, R75). -/
theorem executeWord_cases {w : Cmd} {s t : State} (h : executeWord w s = .next t) :
    (∃ i, decode w = .command i ∧ exec i s = .next t) ∨ (∃ e, decode w = .illegal e ∧ t = s.raise .illegalCommand) := by
  unfold executeWord at h
  split at h <;> simp_all

/-- Every word reaches a next state. -/
theorem executeWord_next (w : Cmd) (s : State) : ∃ t, executeWord w s = .next t := by
  unfold executeWord
  split
  · exact exec_next _ _
  · exact ⟨_, rfl⟩

/-- Everything a command can do: `Runs i s t` says that `i` in `s` gives `t`, by which of its cases. -/
inductive Runs : Instr → State → State → Prop where
  /-- Refused by one of its checks (R74, R225); the codes 6 and 7 are never raised (R231, R232). -/
  | refused {i : Instr} {s : State} {e : Exc} (h1 : e ≠ .malformedBitLength) (h2 : e ≠ .indexOutOfRange) : Runs i s (s.raise e)
  | nop {s : State} : Runs .nop s s.respondOk
  | ldkey {n : BitVec 8} {key : Block} {s : State} (h1 : s.seq = .idle) (h2 : n ≠ 0#8) :
      Runs (.ldkey n key) s (s.loadKey (keyOperand n key)).respondOk
  | ldiv {iv : Block} {s : State} (h1 : s.seq = .idle) : Runs (.ldiv iv) s (s.loadIv iv).respondOk
  | start {mode : BitVec 8} {len : BitVec 64} {s : State} (h1 : mode ≤ 1#8) (h2 : s.seq = .idle) (h3 : s.kvalid = true)
      (h4 : s.ivvalid = true) (h5 : mode = 1#8 → lengthMalformed len = false) :
      Runs (.start mode len) s (s.openMessage (openedSeq mode len) len).respondOk
  | enc {data : Block} {s : State} (h1 : s.seq = .enc) : Runs (.blk data) s
      ((s.chainStep (encOutput data s) (encOutput data s) (encBytes s)).respondData (encOutput data s))
  | dec {data : Block} {s : State} (h1 : s.seq = .dec) : Runs (.blk data) s
      ((s.chainStep (decOutput data s) data Config.blockBytes).respondData (decOutput data s))
  | abort {s : State} : Runs .abort s s.dropMessage.respondOk
  | rdout {s : State} (h1 : s.ovalid = true) : Runs .rdout s (s.respondData s.dout)
  | rdstat {s : State} : Runs .rdstat s (s.respondData (statusWord s))
  | rdrem {s : State} : Runs .rdrem s (s.respondData s.rem)
  | clrerr {s : State} : Runs .clrerr s s.clearErr.respondOk

/-- Every execution is one of the cases of `Runs`. -/
theorem exec_runs {i : Instr} {s t : State} (h : exec i s = .next t) : Runs i s t := by
  cases i with
  | nop => cases h; exact .nop
  | ldkey n key =>
    rcases execLdkey_cases h with ⟨_, rfl⟩ | ⟨_, _, rfl⟩ | ⟨h1, h2, rfl⟩
    · exact .refused (by decide) (by decide)
    · exact .refused (by decide) (by decide)
    · exact .ldkey h1 h2
  | ldiv iv =>
    rcases execLdiv_cases h with ⟨_, rfl⟩ | ⟨h1, rfl⟩
    · exact .refused (by decide) (by decide)
    · exact .ldiv h1
  | start mode len =>
    rcases execStart_cases h with ⟨_, rfl⟩ | ⟨_, _, rfl⟩ | ⟨_, _, _, rfl⟩ | ⟨_, _, _, _, rfl⟩ | ⟨_, _, _, _, _, rfl⟩ |
      ⟨h1, h2, h3, h4, h5, rfl⟩
    case inr.inr.inr.inr.inr => exact .start h1 h2 h3 h4 h5
    all_goals exact .refused (by decide) (by decide)
  | blk data =>
    rcases execBlk_cases h with ⟨_, rfl⟩ | ⟨h1, rfl⟩ | ⟨h1, rfl⟩
    · exact .refused (by decide) (by decide)
    · exact .enc h1
    · exact .dec h1
  | abort => cases h; exact .abort
  | rdout =>
    rcases execRdout_cases h with ⟨_, rfl⟩ | ⟨h1, rfl⟩
    · exact .refused (by decide) (by decide)
    · exact .rdout h1
  | rdstat => cases h; exact .rdstat
  | rdrem => cases h; exact .rdrem
  | clrerr => cases h; exact .clrerr

/-! ## step -/

/-- A presented command is the next to run, with the host's other moves as they were. -/
@[simp] theorem step_present_command (s : State) (w : Cmd) : step (s.present (.command w)) = executeWord w s := rfl

/-- A presented reset is the next to run. -/
@[simp] theorem step_present_reset (s : State) : step (s.present .reset) = .next s.resetEvent := rfl

/-- Everything a step can do. -/
theorem step_cases {s t : State} (h : step s = .next t) :
    (∃ w rest, s.script = .command w :: rest ∧ executeWord w (s.setScript rest) = .next t) ∨
    (∃ rest, s.script = .reset :: rest ∧ t = State.reset.setScript rest) := by
  unfold step State.fetch at h
  cases hs : s.script with
  | nil => simp [hs] at h
  | cons ev rest =>
    cases ev with
    | command w => exact .inl ⟨w, rest, rfl, by simpa [hs, executeEvent] using h⟩
    | reset => exact .inr ⟨rest, rfl, by simpa [hs, executeEvent, State.resetEvent] using h.symm⟩

end Sys2Proof.Machine
end

