-- ==== Sys2Proof/Laws/Responses.lean ====
section
/-! SUPPORT. The fields of a response word (30_encoding.md rule R71). -/

namespace Sys2Proof.Machine

/-- The bits of a response word. -/
theorem mkResp_getLsbD (rcode : BitVec 8) (rdata : BitVec 64) (i : Nat) :
    (mkResp rcode rdata).getLsbD i = if i < 64 then rdata.getLsbD i else rcode.getLsbD (i - 64) := by
  have h : (mkResp rcode rdata).getLsbD i = (rcode ++ rdata : BitVec (8 + 64)).getLsbD i := rfl
  rw [h, BitVec.getLsbD_append]

@[simp] theorem respRcode_mkResp (rcode : BitVec 8) (rdata : BitVec 64) : respRcode (mkResp rcode rdata) = rcode := by
  apply BitVec.eq_of_getLsbD_eq
  intro i hi
  simp [respRcode, mkResp_getLsbD, hi]

@[simp] theorem respRdata_mkResp (rcode : BitVec 8) (rdata : BitVec 64) : respRdata (mkResp rcode rdata) = rdata := by
  apply BitVec.eq_of_getLsbD_eq
  intro i hi
  simp [respRdata, mkResp_getLsbD, hi]

/-- Every error's result code is at or above 0x80 (R79). -/
theorem rcodeError_ge (e : Exc) : 0x80#8 ≤ rcodeError e := by cases e <;> decide

end Sys2Proof.Machine
end

