-- ==== Sys2Proof/Laws/Facade.lean ====
section
/-! SUPPORT. How the host's command sequences run (46_facade_pseudo_ops.md rule R200): one command issued, and a sequence by its first command. -/

namespace Sys2Proof.Machine

/-- A command that executes answers with the response its next state holds. -/
theorem issue_of_executeWord {w : Cmd} {s t : State} {r : Resp} (h : executeWord w s = .next t) (hr : t.resp = some r) :
    issue w s = some (t, r) := by
  simp [issue, h, hr]

/-- The word of `LDKEY` runs `LDKEY`. -/
theorem executeWord_encode_ldkey (n : BitVec 8) (key : Block) (s : State) :
    executeWord (encode (.ldkey n key)) s = execLdkey n key s := by
  simp [executeWord, encode, decodeFields, exec]

/-- The word of `LDIV` runs `LDIV`. -/
theorem executeWord_encode_ldiv (iv : Block) (s : State) : executeWord (encode (.ldiv iv)) s = execLdiv iv s := by
  simp [executeWord, encode, decodeFields, decodePayloadOnly, exec]

/-- The word of `START` with a mode that is 0 or 1 runs `START`. -/
theorem executeWord_encode_start {mode : BitVec 8} (h : mode ≤ 1#8) (len : BitVec 64) (s : State) :
    executeWord (encode (.start mode len)) s = execStart mode len s := by
  simp [executeWord, encode, decodeFields, decodeStart, h, exec]

/-- The word of `BLK` runs `BLK`. -/
theorem executeWord_encode_blk (data : Block) (s : State) : executeWord (encode (.blk data)) s = execBlk data s := by
  simp [executeWord, encode, decodeFields, decodePayloadOnly, exec]

/-- A sequence whose first command answers without an error goes on with the rest from its next state. -/
theorem issueAll_cons_ok {w : Cmd} {ws : List Cmd} {s t u : State} {r : Resp} {out : List Block} (h : issue w s = some (t, r))
    (hr : ¬ 0x80#8 ≤ respRcode r) (hrest : issueAll ws t = (u, .ok out)) :
    issueAll (w :: ws) s = (u, .ok (respBlocks r ++ out)) := by
  simp only [issueAll, h, if_neg hr, hrest]

/-- An error of the rest of a sequence is the sequence's. -/
theorem issueAll_cons_rest_error {w : Cmd} {ws : List Cmd} {s t u : State} {r : Resp} {rcode : BitVec 8}
    (h : issue w s = some (t, r)) (hr : ¬ 0x80#8 ≤ respRcode r) (hrest : issueAll ws t = (u, .error rcode)) :
    issueAll (w :: ws) s = (u, .error rcode) := by
  simp only [issueAll, h, if_neg hr, hrest]

/-- A sequence stops at its first error, with nothing issued after it. -/
theorem issueAll_cons_error {w : Cmd} {ws : List Cmd} {s t : State} {r : Resp} (h : issue w s = some (t, r))
    (hr : 0x80#8 ≤ respRcode r) : issueAll (w :: ws) s = (t, .error (respRcode r)) := by
  simp only [issueAll, h, if_pos hr]

/-- An `OK` response carries no block. -/
@[simp] theorem respBlocks_ok (d : BitVec 64) : respBlocks (mkResp rcodeOk d) = [] := by
  simp [respBlocks, rcodeOk, rcodeOkData]

/-- An `OKDATA` response carries its block. -/
@[simp] theorem respBlocks_data (d : BitVec 64) : respBlocks (mkResp rcodeOkData d) = [d] := by
  simp [respBlocks]

/-! ## Expansions, and where there is none -/

/-- An expansion the spec defines is issued. -/
@[simp] theorem issueDefined_some (ws : List Cmd) (s : State) : issueDefined (some ws) s = issueAll ws s := rfl

/-- Where the spec defines no expansion, nothing is issued. -/
@[simp] theorem issueDefined_none (s : State) : issueDefined none s = (s, .notDefined) := rfl

/-- `SETIV` of 8 bytes is `LDIV` (R202). -/
theorem setIvCmd_of_length {iv : List Byte} (h : iv.length = 8) : setIvCmd iv = some (encode (.ldiv (be64 iv))) := if_pos h

/-- `SETIV` of any other length is no command (R202). -/
theorem setIvCmd_eq_none {iv : List Byte} (h : iv.length ≠ 8) : setIvCmd iv = none := if_neg h

/-- The expansion of a message with an IV of 8 bytes and a length that can be expressed (R203, R204). -/
theorem messageExpansion_eq_some {mode : BitVec 8} {m key iv : List Byte} {n : Nat} (hiv : iv.length = 8) (hm : m.length < 2 ^ 64) :
    messageExpansion mode m key iv n = some (setKeyCmd key :: encode (.ldiv (be64 iv)) :: messageCmds mode m n) := by
  rw [messageExpansion, if_pos hm, setIvCmd_of_length hiv, Option.map_some]

/-- A message has no expansion with an IV of another length or a length that cannot be expressed. -/
theorem messageExpansion_eq_none {mode : BitVec 8} {m key iv : List Byte} {n : Nat} (h : iv.length ≠ 8 ∨ 2 ^ 64 ≤ m.length) :
    messageExpansion mode m key iv n = none := by
  unfold messageExpansion
  split
  · rename_i hm
    have hiv : iv.length ≠ 8 := h.resolve_right (Nat.not_le.mpr hm)
    rw [setIvCmd_eq_none hiv, Option.map_none]
  · rfl

end Sys2Proof.Machine
end

