-- ==== Sys2Proof/Laws/Feistel.lean ====
section
/-! SUPPORT. How halves, key halves and nibbles join into wider vectors, and are taken out of them again (42_sbox_stage.md rule R132, 43_feistel_round.md rules R141, R143). -/

namespace Sys2Proof.Machine

/-- The bits of the swapped join (R143). -/
theorem joinSwapped_getMsbD (LR : Half × Half) (i : Nat) :
    (joinSwapped LR).getMsbD i = if i < 32 then LR.2.getMsbD i else LR.1.getMsbD (i - 32) := by
  show (LR.2 ++ LR.1 : BitVec (32 + 32)).getMsbD i = _
  rw [BitVec.getMsbD_append]
  by_cases h : i < 32 <;> simp [h]

/-- A block made by the swapped join splits into the swapped halves. -/
theorem splitBlock_joinSwapped (LR : Half × Half) : splitBlock (joinSwapped LR) = LR.swap := by
  unfold splitBlock
  ext1 <;> apply BitVec.eq_of_getMsbD_eq <;> intro i hi <;> simp only
  · rw [slice_getMsbD _ (by omega), joinSwapped_getMsbD]
    simp [hi]
  · rw [slice_getMsbD _ (by omega), joinSwapped_getMsbD]
    simp [hi]

/-- The halves of a block, swapped, join into it. -/
theorem joinSwapped_splitBlock (B : Block) : joinSwapped (splitBlock B).swap = B := by
  apply BitVec.eq_of_getMsbD_eq
  intro i hi
  rw [splitBlock, Prod.swap, joinSwapped_getMsbD]
  split
  · rw [slice_getMsbD _ (by omega)]
    simp [*]
  · have h1 : i - 32 < 32 := by omega
    have h2 : 32 + (i - 32) = i := by omega
    rw [slice_getMsbD _ (by omega)]
    simp [h1, h2]

/-- The bits of `C ‖ D` (R115). -/
theorem keyHalves_append_getMsbD (C D : BitVec 28) (i : Nat) :
    (C ++ D : BitVec 56).getMsbD i = if i < 28 then C.getMsbD i else D.getMsbD (i - 28) := by
  show (C ++ D : BitVec (28 + 28)).getMsbD i = _
  rw [BitVec.getMsbD_append]
  by_cases h : i < 28 <;> simp [h]

/-- Nibble `g` of the substitution's output is the output of S-box `g` (R132). -/
theorem slice_substitute (A : Subkey) (g : Fin 8) : slice (substitute A) (4 * g) 4 = sboxOut A g := by
  apply BitVec.eq_of_getLsbD_eq
  intro i hi
  show (slice (sboxOut A 0 ++ sboxOut A 1 ++ sboxOut A 2 ++ sboxOut A 3 ++ sboxOut A 4 ++ sboxOut A 5 ++ sboxOut A 6 ++
    sboxOut A 7 : BitVec (4 + 4 + 4 + 4 + 4 + 4 + 4 + 4)) (4 * g) 4).getLsbD i = _
  rw [slice, BitVec.getLsbD_extractLsb']
  fin_cases g <;> simp only [BitVec.getLsbD_append, hi] <;> simp <;> (interval_cases i <;> simp)

end Sys2Proof.Machine
end

