-- ==== Sys2Proof/Laws/Operands.lean ====
section
/-! SUPPORT. What the operands and outputs of the commands depend on (10_state.md rule R41). -/

namespace Sys2Proof.Machine

set_option Elab.async false

/-- A mode that is no reserved value is 0 or 1 (R73). -/
theorem mode_cases {mode : BitVec 8} (h : mode ≤ 1#8) : mode = 0#8 ∨ mode = 1#8 := by
  have hall : ∀ m : BitVec 8, m ≤ 1#8 → m = 0#8 ∨ m = 1#8 := by decide +kernel
  exact hall mode h

/-- The message bytes of the next block depend on `REM` alone. -/
theorem encBytes_congr {s t : State} (h : s.rem = t.rem) : encBytes s = encBytes t := by
  simp [encBytes, h]

/-- An encrypting block depends on `KEY`, `PREV` and `REM` alone. -/
theorem encOutput_congr {s t : State} (hk : s.key = t.key) (hp : s.prev = t.prev) (hr : s.rem = t.rem) (data : Block) :
    encOutput data s = encOutput data t := by
  simp [encOutput, plainOperand, encBytes_congr hr, hp, State.rk, hk]

/-- A decrypting block depends on `KEY` and `PREV` alone. -/
theorem decOutput_congr {s t : State} (hk : s.key = t.key) (hp : s.prev = t.prev) (data : Block) :
    decOutput data s = decOutput data t := by
  simp [decOutput, hp, State.rk, hk]

end Sys2Proof.Machine
end

