-- ==== Sys2Proof/Laws/PerInstr.lean ====
section
/-! SUPPORT. Per-instruction laws of the syntax. MatchesItsRow: a well-formed command's word matches the row of spec/opcode_table.json that bears its mnemonic (30_encoding.md rules R72, R75). -/

namespace Sys2Proof.Laws.MatchesItsRow

set_option Elab.async false

/-- The word of a well-formed command matches a row of the opcode table with its mnemonic. -/
def Statement (i : Instr) : Prop :=
  i.wellFormed = true → ∃ r ∈ opcodeTable, r.mnemonic = i.mnemonic ∧ r.accepts (encode i) = true

/-- The mask of `LDKEY` keeps the opcode alone. -/
theorem mkCmd_and_opcode_mask (op arg : BitVec 8) (payload : BitVec 64) :
    mkCmd op arg payload &&& 0xFF000000000000000000#80 = mkCmd op 0#8 0#64 := by
  rw [show (0xFF000000000000000000#80 : Cmd) = mkCmd 0xFF#8 0#8 0#64 by decide, mkCmd_and, BitVec.and_zero, BitVec.and_zero,
    show op &&& 0xFF#8 = op from BitVec.and_allOnes]

/-- The mask of `LDIV` and `BLK` keeps the opcode and the argument. -/
theorem mkCmd_and_payload_mask (op arg : BitVec 8) (payload : BitVec 64) :
    mkCmd op arg payload &&& 0xFFFF0000000000000000#80 = mkCmd op arg 0#64 := by
  rw [show (0xFFFF0000000000000000#80 : Cmd) = mkCmd 0xFF#8 0xFF#8 0#64 by decide, mkCmd_and, BitVec.and_zero,
    show op &&& 0xFF#8 = op from BitVec.and_allOnes, show arg &&& 0xFF#8 = arg from BitVec.and_allOnes]

/-- The mask of `START` keeps the opcode and the argument but for its lowest bit. -/
theorem mkCmd_and_start_mask (op arg : BitVec 8) (payload : BitVec 64) :
    mkCmd op arg payload &&& 0xFFFE0000000000000000#80 = mkCmd op (arg &&& 0xFE#8) 0#64 := by
  rw [show (0xFFFE0000000000000000#80 : Cmd) = mkCmd 0xFF#8 0xFE#8 0#64 by decide, mkCmd_and, BitVec.and_zero,
    show op &&& 0xFF#8 = op from BitVec.and_allOnes]

theorem nop : Statement .nop := fun _ => by decide +kernel

theorem ldkey (n : BitVec 8) (key : Block) : Statement (.ldkey n key) := fun _ =>
  ⟨_, .tail _ (.head _), rfl, by
    rw [OpcodeRow.accepts, encode, mkCmd_and_opcode_mask]
    decide⟩

theorem ldiv (iv : Block) : Statement (.ldiv iv) := fun _ =>
  ⟨_, .tail _ (.tail _ (.head _)), rfl, by
    rw [OpcodeRow.accepts, encode, mkCmd_and_payload_mask]
    decide⟩

theorem start (mode : BitVec 8) (len : BitVec 64) : Statement (.start mode len) := fun h =>
  ⟨_, .tail _ (.tail _ (.tail _ (.head _))), rfl, by
    have hm : mode ≤ 1#8 := by simpa [Instr.wellFormed] using h
    have hz : mode &&& 0xFE#8 = 0#8 := by
      have hall : ∀ m : BitVec 8, m ≤ 1#8 → m &&& 0xFE#8 = 0#8 := by decide +kernel
      exact hall mode hm
    rw [OpcodeRow.accepts, encode, mkCmd_and_start_mask, hz]
    decide⟩

theorem blk (data : Block) : Statement (.blk data) := fun _ =>
  ⟨_, .tail _ (.tail _ (.tail _ (.tail _ (.head _)))), rfl, by
    rw [OpcodeRow.accepts, encode, mkCmd_and_payload_mask]
    decide⟩

theorem abort : Statement .abort := fun _ => by decide +kernel

theorem rdout : Statement .rdout := fun _ => by decide +kernel

theorem rdstat : Statement .rdstat := fun _ => by decide +kernel

theorem rdrem : Statement .rdrem := fun _ => by decide +kernel

theorem clrerr : Statement .clrerr := fun _ => by decide +kernel

end Sys2Proof.Laws.MatchesItsRow
end

