-- ==== Sys2Proof/Laws/Tables.lean ====
section
/-! SUPPORT. The checked facts about the constant tables (40_permutation_network.md rule R99, 41_key_schedule.md rule R114, 42_sbox_stage.md rule R133): with the range proofs each table carries, they discharge `IndexOutOfRange` once and statically (R91, R135, R232). -/

namespace Sys2Proof.Machine

set_option Elab.async false

/-- `IP` is a bijection of 1..64 (R99 (c)). -/
theorem tableIP_bijection : tableIP.entries.Nodup ∧ ∀ p, p ∈ tableIP.entries ↔ 1 ≤ p ∧ p ≤ 64 :=
  ⟨by decide +kernel, fun p => ⟨tableIP.in_range p, fun h => by
    have hall : ∀ q : Fin 65, 1 ≤ q.val → q.val ∈ tableIP.entries := by decide +kernel
    exact hall ⟨p, by omega⟩ h.1⟩⟩

/-- `FP` is a bijection of 1..64 (R99 (c)). -/
theorem tableFP_bijection : tableFP.entries.Nodup ∧ ∀ p, p ∈ tableFP.entries ↔ 1 ≤ p ∧ p ≤ 64 :=
  ⟨by decide +kernel, fun p => ⟨tableFP.in_range p, fun h => by
    have hall : ∀ q : Fin 65, 1 ≤ q.val → q.val ∈ tableFP.entries := by decide +kernel
    exact hall ⟨p, by omega⟩ h.1⟩⟩

/-- `P` is a bijection of 1..32 (R99 (c)). -/
theorem tableP_bijection : tableP.entries.Nodup ∧ ∀ p, p ∈ tableP.entries ↔ 1 ≤ p ∧ p ≤ 32 :=
  ⟨by decide +kernel, fun p => ⟨tableP.in_range p, fun h => by
    have hall : ∀ q : Fin 33, 1 ≤ q.val → q.val ∈ tableP.entries := by decide +kernel
    exact hall ⟨p, by omega⟩ h.1⟩⟩

/-- `PC1` has 56 distinct entries, none a multiple of 8 (R99 (d)). -/
theorem tablePC1_distinct : tablePC1.entries.Nodup ∧ ∀ p ∈ tablePC1.entries, p % 8 ≠ 0 := by decide +kernel

/-- `PC2` has 48 distinct entries (R99 (d)), the first 24 in 1..28 and the last 24 in 29..56 (R96). -/
theorem tablePC2_distinct : tablePC2.entries.Nodup ∧ (∀ p ∈ tablePC2.entries.take 24, p ≤ 28) ∧
    ∀ p ∈ tablePC2.entries.drop 24, 29 ≤ p := by decide +kernel

/-- `E` covers every position 1..32 (R99 (e)). -/
theorem tableE_covers : ∀ q : Fin 33, 1 ≤ q.val → q.val ∈ tableE.entries := by decide +kernel

/-- `FP[IP[i] - 1] = i + 1` and `IP[FP[i] - 1] = i + 1` (R99 (f)). -/
theorem tables_inverse : ∀ i : Fin 64,
    tableFP.entries.getD (tableIP.entries.getD i 0 - 1) 0 = i + 1 ∧
    tableIP.entries.getD (tableFP.entries.getD i 0 - 1) 0 = i + 1 := by decide +kernel

/-- `CUM[i] = SHIFT[0] + ... + SHIFT[i]` (R114). -/
theorem cum_is_running_sum : ∀ i : Fin 16, cumAt i = (shiftList.take (i + 1)).sum := by decide +kernel

/-- `CUM[15] = 28`, the width of a half (R114). -/
theorem cum_ends_at_width : cumAt 15 = 28 := by decide

/-- Every row of every S-box is a permutation of 0..15 (R133). -/
theorem sbox_rows_permutations : ∀ g : Fin 8, ∀ r ∈ (sboxOf g).rows, r.Nodup := by decide +kernel

/-- The row and column indices never leave a table (R131). -/
theorem sbox_index_bounds (x : BitVec 6) : sboxRow x ≤ 3 ∧ sboxCol x ≤ 15 := by
  have h (b : Bool) : b.toNat ≤ 1 := by cases b <;> simp
  have h0 := h (x.getMsbD 0)
  have h1 := h (x.getMsbD 1)
  have h2 := h (x.getMsbD 2)
  have h3 := h (x.getMsbD 3)
  have h4 := h (x.getMsbD 4)
  have h5 := h (x.getMsbD 5)
  simp only [sboxRow, sboxCol]
  omega

end Sys2Proof.Machine
end

