-- ==== Sys2Proof/Tests/Slice0.lean ====
section
/-! SUPPORT. Tests of the model: ill-formed terms refused, decoding and encoding on words written out from the spec, one or two steps per command with the responses of 95_test_vectors.md, and for every statement with hypotheses a witness that meets them. -/

namespace Sys2Proof.Tests

set_option Elab.async false

open Sys2Proof Sys2Proof.Machine Sys2Proof.Safety Sys2Proof.Claims

/-! ## Small states -/

/-- Key "Super_Se" and IV "01234567" loaded, `IDLE` (95_test_vectors.md V0.1). -/
def loaded : State :=
  { State.reset with key := 0x53757065725F5365#64, kvalid := true, iv := 0x3031323334353637#64, ivvalid := true }

/-- An encryption open after `START`, `r` bytes left. -/
def encOpen (r : BitVec 64) : State := { loaded with seq := .enc, rem := r, prev := 0x3031323334353637#64 }

/-- A decryption open after `START`, `r` bytes left. -/
def decOpen (r : BitVec 64) : State := { loaded with seq := .dec, rem := r, prev := 0x3031323334353637#64 }

/-- The response a step leaves. -/
def answer (o : Host.Outcome State Fault Refusal) : Option Resp :=
  match o with
  | .next t => t.resp
  | .fault _ => none
  | .refused _ => none

/-- The state a step leaves, `State.reset` where there is none. -/
def after (o : Host.Outcome State Fault Refusal) : State :=
  match o with
  | .next t => t
  | .fault _ => .reset
  | .refused _ => .reset

/-- `o` is the next state `t`, as a test that evaluates. -/
def isNext (o : Host.Outcome State Fault Refusal) (t : State) : Bool :=
  match o with
  | .next u => decide (u = t)
  | .fault _ => false
  | .refused _ => false

/-- What `isNext` says. -/
theorem next_of_isNext {o : Host.Outcome State Fault Refusal} {t : State} (h : isNext o t = true) : o = .next t := by
  cases o <;> simp_all [isNext]

/-! ## Well-formedness: one check, the mode of START (R73) -/

theorem test_mode_two_is_ill_formed : (Instr.start 2 8).wellFormed = false := by decide

theorem test_mode_255_is_ill_formed : (Instr.start 255 0).wellFormed = false := by decide

theorem test_modes_zero_and_one_are_well_formed :
    (Instr.start 0 13).wellFormed = true ∧ (Instr.start 1 5).wellFormed = true := by decide

/-! ## Decoding: words written out field by field from R72 (`OP` 8 bits, `ARG` 8 bits, `PAYLOAD` 64 bits) -/

theorem test_decode_nop : decode 0x00000000000000000000 = .command .nop := by decide

theorem test_decode_ldkey : decode 0x010853757065725F5365 = .command (.ldkey 8 0x53757065725F5365) := by decide

theorem test_decode_ldiv : decode 0x02003031323334353637 = .command (.ldiv 0x3031323334353637) := by decide

theorem test_decode_start : decode 0x1000000000000000000D = .command (.start 0 13) := by decide

theorem test_decode_blk : decode 0x11004142434445464748 = .command (.blk 0x4142434445464748) := by decide

theorem test_decode_abort : decode 0x12000000000000000000 = .command .abort := by decide

theorem test_decode_rdout : decode 0x20000000000000000000 = .command .rdout := by decide

theorem test_decode_rdstat : decode 0x21000000000000000000 = .command .rdstat := by decide

theorem test_decode_rdrem : decode 0x22000000000000000000 = .command .rdrem := by decide

theorem test_decode_clrerr : decode 0x23000000000000000000 = .command .clrerr := by decide

/-- V6.2: the reserved words of the table of refusals. -/
theorem test_decode_refuses_reserved_words :
    decode 0xFF000000000000000000 = .illegal .reservedOpcode ∧ decode 0x03000000000000000000 = .illegal .reservedOpcode ∧
    decode 0x00000000000000000001 = .illegal .reservedField ∧ decode 0x21010000000000000000 = .illegal .reservedField ∧
    decode 0x02010000000000000000 = .illegal .reservedField ∧ decode 0x11010000000000000000 = .illegal .reservedField ∧
    decode 0x10020000000000000008 = .illegal .reservedField := by decide

/-- The words of V0.1, V0.4 and V6.2. -/
theorem test_encode_words :
    encode (.ldkey 8 0x53757065725F5365) = 0x010853757065725F5365 ∧ encode (.ldiv 0x3031323334353637) = 0x02003031323334353637 ∧
    encode (.start 1 5) = 0x10010000000000000005 ∧ encode (.blk 0x4142434445464748) = 0x11004142434445464748 := by decide

/-- The host's numbering of a row's bits: `LDKEY` is 0x01 in bits 79..72. -/
theorem test_decodeTableWord : decodeTableWord 80 0x010853757065725F5365 = some (.ldkey 8 0x53757065725F5365) := by decide

/-! ## Bits and tables (V1 to V4) -/

/-- R90's own example: `permute(1011, [4, 1, 1, 2]) = 1110`. -/
theorem test_permute_example :
    permute (0b1011 : BitVec 4) ⟨[4, 1, 1, 2], by decide, by decide⟩ = (0b1110 : BitVec 4) := by decide +kernel

/-- V1. -/
theorem test_permute_tables :
    permute (0x0123456789ABCDEF : BitVec 64) tableIP = 0xCC00CCFFF0AAF0AA ∧
    permute (0x0A4CD99543423234 : BitVec 64) tableFP = 0x85E813540F0AB405 ∧
    permute (0x133457799BBCDFF1 : BitVec 64) tablePC1 = 0xF0CCAAF556678F ∧
    permute (0xE19955FAACCF1E : BitVec 56) tablePC2 = 0x1B02EFFC7072 ∧
    permute (0x12345678 : BitVec 32) tableE = 0x0A41A82AC3F0 ∧
    permute (0x12345678 : BitVec 32) tableP = 0x6E34140E := by decide +kernel

/-- V2.2: the first, ninth and last subkey of "Super_Se". -/
theorem test_subkeys : subkey 0x53757065725F5365 0 = 0xA0B6EE270076 ∧ subkey 0x53757065725F5365 8 = 0x3D4ADBC14F09 ∧
    subkey 0x53757065725F5365 15 = 0xE1BAAEBE0305 := by decide +kernel

/-- V2.0: a long key is cut, a short one padded, and the empty one is no key at all. -/
theorem test_normKey : normKey [0x61, 0x62] = 0x6162000000000000 ∧
    normKey [0x53, 0x75, 0x70, 0x65, 0x72, 0x5F, 0x53, 0x65, 0x63, 0x72, 0x65, 0x74] = 0x53757065725F5365 := by decide +kernel

/-- V3: the significance of the index bits. -/
theorem test_substitute : substitute 0x6117BA866527 = 0x5C82B597 ∧ substitute 0x800000000000 = 0x4FA72C4D ∧
    substitute 0x400000000000 = 0x3FA72C4D ∧ substitute 0x040000000000 = 0x0FA72C4D := by decide +kernel

/-- V4.1. -/
theorem test_roundFunction : roundFunction 0xF0AAF0AA 0x1B02EFFC7072 = 0x234AA9BB := by decide +kernel

/-- V4.2, reproduced by OpenSSL. -/
theorem test_blockEnc : blockEnc 0x0123456789ABCDEF (subkey 0x133457799BBCDFF1) = 0x85E813540F0AB405 := by decide +kernel

/-- V4.2. -/
theorem test_blockDec : blockDec 0x0123456789ABCDEF (subkey 0x133457799BBCDFF1) = 0xEE0F7C12E0B09338 := by decide +kernel

/-- V4.3: the output of the sixteen rounds with the final swap, by the micro-stepped engine. -/
theorem test_engineRun : engineRun 0xFFFF88FF00FF80AA (subkey 0x53757065725F5365) false = 0xE63CF8A288CFA768 := by
  decide +kernel

/-- The bytes of V5.2 in either letter case. -/
theorem test_hex : hexText .upper [0x48, 0x6C] = ['4', '8', '6', 'C'] ∧ hexText .lower [0x6C] = ['6', 'c'] ∧
    unhexText ['6', 'c', '6', 'C'] = some [0x6C, 0x6C] := by decide

/-! ## One step each -/

/-- Right after reset nothing is presented, and no step happens. -/
theorem test_reset_waits_for_a_command : step State.reset = .fault .noCommand := rfl

/-- A table row's word placed by the host is the first to run after reset. -/
theorem test_withFetchWord : answer (step (State.reset.withFetchWord 80 0x21000000000000000000)) = some 0x010000000000000000 := by
  decide

/-- V6.2, first row. -/
theorem test_unassigned_opcode : step (loaded.present (.command 0xFF000000000000000000)) =
    .next { loaded with err := some .illegalCommand, resp := some 0x810000000000000000 } :=
  next_of_isNext (by decide)

theorem test_nop : step (loaded.present (.command 0)) = .next { loaded with resp := some 0 } :=
  next_of_isNext (by decide)

/-- V2.0: "ab" with garbage after it. -/
theorem test_ldkey_masks : (after (exec (.ldkey 2 0x6162FFFFFFFFFFFF) State.reset)).key = 0x6162000000000000 ∧
    (after (exec (.ldkey 2 0x6162FFFFFFFFFFFF) State.reset)).kvalid = true := by decide

/-- V2.0: the empty key. -/
theorem test_ldkey_empty : exec (.ldkey 0 0xFFFFFFFFFFFFFFFF) loaded =
    .next { loaded with err := some .invalidKeyMaterial, resp := some 0x830000000000000000 } :=
  next_of_isNext (by decide)

theorem test_ldiv : (after (exec (.ldiv 0) loaded)).iv = 0 ∧ (after (exec (.ldiv 0) loaded)).ivvalid = true := by decide

/-- V6.2: `LDIV` with a message open. -/
theorem test_ldiv_frozen : answer (exec (.ldiv 0) (encOpen 8)) = some 0x820000000000000000 := by decide

/-- V0.4: a ciphertext of 5 bytes. -/
theorem test_start_malformed : exec (.start 1 5) loaded =
    .next { loaded with err := some .malformedCiphertextLength, resp := some 0x850000000000000000 } :=
  next_of_isNext (by decide)

/-- V6.2: the greatest length a decryption accepts. -/
theorem test_start_greatest : exec (.start 1 0xFFFFFFFFFFFFFFF8) loaded =
    .next { decOpen 0xFFFFFFFFFFFFFFF8 with resp := some 0 } :=
  next_of_isNext (by decide)

/-- V5.3: the last block of 13 bytes, the payload's last three bytes masked. -/
theorem test_blk_encrypts : answer (exec (.blk 0x6F726C6421FFFFFF) { encOpen 5 with prev := 0x9984052F49A93F04 }) =
    some 0x01A95EF004300ED75E := by decide +kernel

/-- V5.4: the second block of a decryption is XORed with the ciphertext before it. -/
theorem test_blk_decrypts : answer (exec (.blk 0x75BE015E0E34260F) { decOpen 8 with prev := 0x286978B6145F66ED }) =
    some 0x01494A4B4C4D4E4F50 := by decide +kernel

/-- Program 4, step 5. -/
theorem test_abort : exec .abort { encOpen 16 with ovalid := true } =
    .next { encOpen 16 with seq := .idle, rem := 0, resp := some 0 } :=
  next_of_isNext (by decide)

/-- Program 4, step 6. -/
theorem test_rdout_without_output : answer (exec .rdout loaded) = some 0x880000000000000000 := by decide

/-- Program 1, step 11. -/
theorem test_rdout : answer (exec .rdout { loaded with dout := 0x4142434445464748, ovalid := true }) =
    some 0x014142434445464748 := by decide

/-- V6.1: a decryption open after a block, and the refused `START DEC, 5`. -/
theorem test_rdstat : answer (exec .rdstat { decOpen 8 with ovalid := true }) = some 0x01000000000000001E ∧
    answer (exec .rdstat { loaded with err := some .malformedCiphertextLength }) = some 0x01000000000000050C := by decide

/-- V6.3. -/
theorem test_rdrem : answer (exec .rdrem (encOpen 13)) = some 0x01000000000000000D := by decide

/-- Program 3, step 10. -/
theorem test_clrerr : exec .clrerr { loaded with err := some .malformedCiphertextLength } =
    .next { loaded with resp := some 0 } :=
  next_of_isNext (by decide)

/-- Program 4, step 15. -/
theorem test_reset_event : step ((encOpen 8).present .reset) = .next State.reset :=
  next_of_isNext (by decide)

/-! ## Witnesses: for every statement with hypotheses, a state and operands that meet them -/

theorem witness_DecodeOfEncodeGivesTheCommand : (Instr.start 1 0xFFFFFFFFFFFFFFFF).wellFormed = true := by decide

theorem witness_DecodedWordIsTheEncodingOfItsCommand : decode 0x1001FFFFFFFFFFFFFFF8 = .command (.start 1 0xFFFFFFFFFFFFFFF8) := by
  decide

/-- An unassigned opcode, and the boundary of `START`'s reserved modes. -/
theorem witness_ReservedWordsMatchNoRowAndAreRefused :
    (∀ r ∈ opcodeTable, (0x24000000000000000000 : Cmd) &&& r.mask ≠ r.pattern) ∧
    (∀ r ∈ opcodeTable, (0x10020000000000000000 : Cmd) &&& r.mask ≠ r.pattern) ∧
    ∃ r ∈ opcodeTable, (0x10010000000000000000 : Cmd) &&& r.mask = r.pattern := by decide

theorem witness_StepRunsTheDecodedCommand :
    (loaded.present (.command 0x22000000000000000000)).script = .command 0x22000000000000000000 :: [] ∧
    decode 0x22000000000000000000 = .command .rdrem := by decide

theorem witness_OnlyAnEmptyPortStops : loaded.script = [] ∧ (loaded.present .reset).script ≠ [] := by decide

/-- Every failing check of R74 has a word and a state, one with an error in a later check as well. -/
theorem witness_CommandsReportTheFirstFailingCheck_each_failure :
    FirstFailure 0xFF 1 1 (encOpen 8) (some .illegalCommand) ∧
    FirstFailure 0x02 1 0 (encOpen 8) (some .illegalCommand) ∧
    FirstFailure 0x10 2 8 (encOpen 8) (some .illegalCommand) ∧
    FirstFailure 0x01 0 0 (encOpen 8) (some .protocolError) ∧
    FirstFailure 0x11 0 0 loaded (some .protocolError) ∧
    FirstFailure 0x01 0 0 loaded (some .invalidKeyMaterial) ∧
    FirstFailure 0x10 1 5 State.reset (some .invalidKeyMaterial) ∧
    FirstFailure 0x10 1 5 { loaded with ivvalid := false } (some .missingIv) ∧
    FirstFailure 0x10 1 5 loaded (some .malformedCiphertextLength) ∧
    FirstFailure 0x20 0 0 loaded (some .outputNotValid) := by
  refine ⟨.opcode (by decide), .reserved (by decide) ?_, .reserved (by decide) ?_, .state (by decide) ?_ ?_,
    .state (by decide) ?_ ?_, .emptyKey rfl ?_ rfl, .noKey rfl ?_ ?_ rfl, .noIv rfl ?_ ?_ rfl rfl,
    .length rfl ?_ rfl rfl rfl (by decide), .noOutput rfl ?_ rfl⟩
  all_goals first | (unfold reservedFieldSet; decide) | (unfold wrongState; decide)

/-- A length that is a multiple of 8, next to those that are not, passes every check. -/
theorem witness_CommandsReportTheFirstFailingCheck_passes :
    FirstFailure 0x10 1 8 loaded none ∧ FirstFailure 0x10 0 7 loaded none ∧ FirstFailure 0x01 1 0 loaded none := by
  refine ⟨.passes (by decide) ?_ ?_ (by decide) (by decide) (by decide), .passes (by decide) ?_ ?_ (by decide) (by decide) (by decide),
    .passes (by decide) ?_ ?_ (by decide) (by decide) (by decide)⟩
  all_goals first | (unfold reservedFieldSet; decide) | (unfold wrongState; decide)

/-- The refused `BLK` of Program 2, step 11. -/
theorem witness_RefusedCommandChangesOnlyErr :
    step (loaded.present (.command 0x11000000000000000000)) = .next (refusedState .protocolError loaded) ∧
    (refusedState .protocolError loaded).resp = some 0x820000000000000000 ∧ 0x80 ≤ respRcode 0x820000000000000000 := by
  and_intros
  all_goals first | exact next_of_isNext (by decide) | decide

/-- A refused `LDIV` in an open encryption, then `RDREM`. -/
theorem witness_RefusedCommandIsInvisibleToTheNext :
    step ((encOpen 8).present (.command 0x02000000000000000000)) = .next (refusedState .protocolError (encOpen 8)) ∧
    decode 0x22000000000000000000 ≠ .command .rdstat ∧
    step ((refusedState .protocolError (encOpen 8)).present (.command 0x22000000000000000000)) =
      .next { encOpen 8 with err := some .protocolError, resp := dataResp 8 } ∧
    step ((encOpen 8).present (.command 0x22000000000000000000)) = .next { encOpen 8 with resp := dataResp 8 } := by
  and_intros
  all_goals first | exact next_of_isNext (by decide) | decide

/-- The clauses of `LDKEY`: a message open, the empty key, the shortest and the longest length. -/
theorem witness_LdkeyLoadsTheKeyInIdle :
    (encOpen 8).seq ≠ .idle ∧ (decOpen 8).seq ≠ .idle ∧ loaded.seq = .idle ∧ (1 : BitVec 8) ≠ 0 ∧ (255 : BitVec 8) ≠ 0 := by decide

/-- A key of two bytes with garbage after them, and one of 300 bytes: its length is 255 in the command. -/
theorem witness_LdkeyLoadsTheKeyInIdle_normKey :
    [(0x61 : Byte), 0x62] ≠ [] ∧ (2 : BitVec 8).toNat = min [(0x61 : Byte), 0x62].length 255 ∧
    (∀ j < min [(0x61 : Byte), 0x62].length 8, byteAt 0x6162FFFFFFFFFFFF j = [(0x61 : Byte), 0x62].getD j 0) ∧
    (255 : BitVec 8).toNat = min (List.replicate 300 (0x61 : Byte)).length 255 ∧
    (∀ j < min (List.replicate 300 (0x61 : Byte)).length 8,
      byteAt 0x6161616161616161 j = (List.replicate 300 (0x61 : Byte)).getD j 0) := by decide +kernel

theorem witness_LdivLoadsTheIvInIdle : (encOpen 8).seq ≠ .idle ∧ loaded.seq = .idle := by decide

/-- The clauses of `START`: the first reserved mode, a message open, no key, no IV, the lengths around a multiple of 8, and
the length 0 in either mode. -/
theorem witness_StartOpensAMessage :
    1 < (2 : BitVec 8).toNat ∧ ((1 : BitVec 8).toNat ≤ 1 ∧ (decOpen 8).seq ≠ .idle) ∧
    ((0 : BitVec 8).toNat ≤ 1 ∧ State.reset.seq = .idle ∧ State.reset.kvalid = false) ∧
    (State.seq { loaded with ivvalid := false } = .idle ∧ State.kvalid { loaded with ivvalid := false } = true ∧
      State.ivvalid { loaded with ivvalid := false } = false) ∧
    (loaded.seq = .idle ∧ loaded.kvalid = true ∧ loaded.ivvalid = true) ∧
    (7 : BitVec 64).toNat % 8 ≠ 0 ∧ (9 : BitVec 64).toNat % 8 ≠ 0 ∧
    ((1 : BitVec 8) = 1 → (8 : BitVec 64).toNat % 8 = 0) ∧ ((1 : BitVec 8) = 1 → (0 : BitVec 64).toNat % 8 = 0) ∧
    ((0 : BitVec 8) = 1 → (7 : BitVec 64).toNat % 8 = 0) := by decide

/-- The clauses of `BLK`: no message, an encryption, a decryption with its last block. -/
theorem witness_BlkAdvancesTheChain :
    loaded.seq = .idle ∧ (encOpen 1).seq = .enc ∧ (decOpen 8).seq = .dec ∧ 8 ≤ (decOpen 8).rem ∧
    (0x4100000000000000 : Block) = blockDec 0x83FEA85B05CE96A0 (subkey (decOpen 8).key) ^^^ (decOpen 8).prev ∧
    (0x83FEA85B05CE96A0 : Block) =
      blockEnc (keep 0x41FFFFFFFFFFFFFF (min (encOpen 1).rem.toNat 8) ^^^ (encOpen 1).prev) (subkey (encOpen 1).key) := by
  decide +kernel

/-- Encrypting at the boundaries of `min(REM, 8)`: 8 bytes left end the message, 9 leave one. -/
theorem witness_BlkAdvancesTheChain_boundaries :
    (after (exec (.blk 0x4142434445464748) (encOpen 8))).seq = .idle ∧ (after (exec (.blk 0x4142434445464748) (encOpen 9))).seq = .enc ∧
    (after (exec (.blk 0x4142434445464748) (encOpen 9))).rem = 1 ∧ (after (exec (.blk 0) (decOpen 16))).rem = 8 := by
  decide +kernel

theorem witness_RdoutRepeatsTheLastOutput :
    loaded.ovalid = false ∧ State.ovalid { loaded with ovalid := true } = true ∧ (encOpen 8).seq ≠ .idle ∧
    ∃ t, exec (.blk 0x4142434445464748) (encOpen 8) = .next t :=
  ⟨rfl, rfl, by decide, _, rfl⟩

/-- A command that keeps the output, and the events after which there is none. -/
theorem witness_RdoutRepeatsTheLastOutput_events :
    exec .clrerr loaded = .next { loaded with resp := okResp } ∧ step (loaded.present .reset) = .next State.reset ∧
    exec .abort loaded = .next { loaded with resp := okResp } ∧
    exec (.start 0 8) loaded = .next { encOpen 8 with resp := okResp } ∧ succeeded { encOpen 8 with resp := okResp } :=
  ⟨next_of_isNext (by decide), next_of_isNext (by decide), next_of_isNext (by decide), next_of_isNext (by decide), _, rfl,
    .inl (by decide)⟩

/-- `RDREM` in `IDLE`, after `START` and after a block. -/
theorem witness_RdremAnswersTheRemainingBytes :
    RegInv loaded ∧ loaded.seq = .idle ∧
    (exec (.start 0 13) loaded = .next { encOpen 13 with resp := okResp } ∧ succeeded { encOpen 13 with resp := okResp }) ∧
    RegInv (encOpen 13) ∧ ∃ t, exec (.blk 0x48656C6C6F2C2077) (encOpen 13) = .next t ∧ succeeded t :=
  ⟨by decide, rfl, ⟨next_of_isNext (by decide), _, rfl, .inl (by decide)⟩, by decide, _, rfl, _, rfl, .inr (by decide +kernel)⟩

/-- A successful command and a refused one. -/
theorem witness_CommandsWriteOnlyTheirWriteSet :
    (exec (.ldiv 0) loaded = .next { loaded with iv := 0, resp := okResp } ∧ succeeded { loaded with iv := 0, resp := okResp }) ∧
    (exec (.ldiv 0) (encOpen 8) = .next (refusedState .protocolError (encOpen 8)) ∧
      ¬ succeeded (refusedState .protocolError (encOpen 8))) := by
  refine ⟨⟨next_of_isNext (by decide), _, rfl, .inl (by decide)⟩, next_of_isNext (by decide), ?_⟩
  rintro ⟨r, hr, h⟩
  cases hr
  revert h
  decide

/-- Two states that differ in `KEY` agree on what `LDIV` reads. -/
theorem witness_CommandsDependOnlyOnTheirReadSet :
    (∀ r ∈ readSet (.ldiv 5), sameReg loaded { loaded with key := 0 } r) ∧
    exec (.ldiv 5) loaded = .next { loaded with iv := 5, resp := okResp } ∧
    exec (.ldiv 5) { loaded with key := 0 } = .next { loaded with key := 0, iv := 5, resp := okResp } := by
  refine ⟨fun r hr => ?_, next_of_isNext (by decide), next_of_isNext (by decide)⟩
  have h : r = .seq := by simpa [readSet] using hr
  subst h
  rfl

theorem witness_ReadsAreIdempotent :
    exec .rdstat loaded = .next { loaded with resp := dataResp 12 } ∧ exec .rdrem (encOpen 13) = .next { encOpen 13 with resp := dataResp 13 } ∧
    State.ovalid { loaded with ovalid := true } = true ∧
    exec .rdout { loaded with ovalid := true } = .next { loaded with ovalid := true, resp := dataResp 0 } := by
  and_intros
  all_goals first | exact next_of_isNext (by decide) | decide

/-- A transition to `ENC`, the one back by `ABORT`, and a refused command. -/
theorem witness_StateChangesOnlyAsListed :
    step (loaded.present (.command 0x10000000000000000008)) = .next { encOpen 8 with resp := okResp } ∧
    decode 0x10000000000000000008 = .command (.start 0 8) ∧
    step ((decOpen 8).present (.command 0x12000000000000000000)) = .next { decOpen 8 with seq := .idle, rem := 0, resp := okResp } ∧
    step ((decOpen 8).present (.command 0x02000000000000000000)) = .next (refusedState .protocolError (decOpen 8)) := by
  and_intros
  all_goals first | exact next_of_isNext (by decide) | decide

theorem witness_ValidFlagsAreClearedByResetAlone :
    step (loaded.present (.command 0x02000000000000000000)) = .next { loaded with iv := 0, resp := okResp } ∧ loaded.kvalid = true ∧
    loaded.ivvalid = true ∧ decode 0x02000000000000000000 = .command (.ldiv 0) ∧
    ((0 : BitVec 8).toNat ≤ 1 ∧ State.reset.seq = .idle ∧ State.reset.kvalid = false) ∧
    State.ivvalid { loaded with ivvalid := false } = false := by
  and_intros
  all_goals first | exact next_of_isNext (by decide) | decide

/-- The same refused word in two states that differ in `ERR` alone, and `CLRERR`. -/
theorem witness_ErrRecordsRefusalsAndGatesNothing :
    step (loaded.present (.command 0x11000000000000000000)) = .next (refusedState .protocolError loaded) ∧
    step (State.present (.command 0x11000000000000000000) { loaded with err := some .outputNotValid }) =
      .next (refusedState .protocolError loaded) ∧
    decode 0x23000000000000000000 = .command .clrerr := by
  and_intros
  all_goals first | exact next_of_isNext (by decide) | decide

theorem witness_KeyAndIvAreFrozenWhileAMessageIsOpen :
    (encOpen 8).seq ≠ .idle ∧ (decOpen 8).seq ≠ .idle ∧
    step ((encOpen 8).present (.command 0x23000000000000000000)) = .next { encOpen 8 with resp := okResp } := by
  and_intros
  all_goals first | exact next_of_isNext (by decide) | decide

/-- `LDKEY` changes `KEY`, `LDIV` changes `IV`, `START` changes `PREV`. -/
theorem witness_DataRegistersChangeOnlyByTheirCommands :
    step (loaded.present (.command 0x01016100000000000000)) = .next { loaded with key := 0x6100000000000000, resp := okResp } ∧
    step (loaded.present (.command 0x02000000000000000000)) = .next { loaded with iv := 0, resp := okResp } ∧
    step (loaded.present (.command 0x10000000000000000008)) = .next { encOpen 8 with resp := okResp } ∧
    (encOpen 8).prev ≠ loaded.prev := by
  and_intros
  all_goals first | exact next_of_isNext (by decide) | decide

/-- A block of an open encryption changes `DOUT`. -/
theorem witness_DataRegistersChangeOnlyByTheirCommands_blk :
    (after (step ((encOpen 8).present (.command 0x11004142434445464748)))).dout = 0x286978B6145F66ED ∧ (encOpen 8).dout = 0 := by
  decide +kernel

theorem witness_StepKeepsTheRegisterInvariant :
    RegInv (State.present (.command 0x22000000000000000000) { decOpen 16 with ovalid := true }) ∧
    step (State.present (.command 0x22000000000000000000) { decOpen 16 with ovalid := true }) =
      .next { decOpen 16 with ovalid := true, resp := dataResp 16 } :=
  ⟨by decide, next_of_isNext (by decide)⟩

/-- Two different states that the host cannot tell apart, with a command to run and with none. -/
theorem witness_UnspecifiedBitsAreUnobservable :
    RegInv (loaded.present (.command 0x10000000000000000008)) ∧
    SameToHost (loaded.present (.command 0x10000000000000000008))
      (State.present (.command 0x10000000000000000008) { loaded with prev := 5, dout := 7 }) ∧
    loaded.present (.command 0x10000000000000000008) ≠
      State.present (.command 0x10000000000000000008) { loaded with prev := 5, dout := 7 } ∧
    step (loaded.present (.command 0x10000000000000000008)) = .next { encOpen 8 with resp := okResp } ∧
    SameToHost State.reset { State.reset with key := 1 } ∧ step State.reset = .fault .noCommand := by
  and_intros
  all_goals first | exact next_of_isNext (by decide) | rfl | decide

theorem witness_EncodeBitsIsMostSignificantFirst :
    1 < [(0x41 : Byte), 0x80].length ∧ 0 < 8 ∧ 7 < 8 ∧ (encodeBits [0x41, 0x80]).getD (8 * 1 + 0) false = true ∧
    (encodeBits [0x41, 0x80]).getD (8 * 0 + 7) false = true := by decide

/-- "ABCDEFGH" (R52's own example). -/
theorem witness_BlockFieldsAreBigEndian : [(0x41 : Byte), 0x42, 0x43, 0x44, 0x45, 0x46, 0x47, 0x48].length = 8 ∧
    be64 [0x41, 0x42, 0x43, 0x44, 0x45, 0x46, 0x47, 0x48] = 0x4142434445464748 := by decide +kernel

theorem witness_DecodeBitsInvertsEncodeBits : [(0x41 : Byte), 0x42, 0x43, 0x44, 0x45, 0x46, 0x47, 0x48].length % 8 = 0 ∧
    decodeBits [0x4142434445464748] = [0x41, 0x42, 0x43, 0x44, 0x45, 0x46, 0x47, 0x48] := by decide +kernel

/-- `IP[39] = 1`: the first input bit is output bit 39 (V1). -/
theorem witness_PermuteSelectsTheTablePositions : 39 < 64 ∧ tableIP.entries.getD 39 0 = 1 ∧
    (permute (0x8000000000000000 : Block) tableIP).getMsbD 39 = true := by decide +kernel

theorem witness_NormKeyPadsAndTruncates : 15 < 64 ∧ 15 < 8 * [(0x61 : Byte), 0x63].length ∧ ¬ 16 < 8 * [(0x61 : Byte), 0x63].length ∧
    (normKey [0x61, 0x63]).getMsbD 15 = true := by decide +kernel

/-- The first and the last bit of a subkey of "Super_Se" (V2.2): both are 1. -/
theorem witness_SubkeyBitsAreRotatedKeyBits : 0 < 48 ∧ 47 < 48 ∧
    (0x53757065725F5365 : Block).getMsbD (keyBitIndex 0 0) = true ∧ (0x53757065725F5365 : Block).getMsbD (keyBitIndex 15 47) = true := by
  decide +kernel

/-- "Super_Se" and "Rtqds^Rd" differ in unused bits alone (V5.6). -/
theorem witness_UnusedKeyBitsInfluenceNothing :
    (∀ i < 64, i % 8 ≠ 7 → (0x53757065725F5365 : Block).getMsbD i = (0x52747164735E5264 : Block).getMsbD i) ∧
    (0x53757065725F5365 : Block) ≠ 0x52747164735E5264 := by decide +kernel

/-- The keys of V2.5, and one whose halves differ. -/
theorem witness_DegenerateKeysHaveEqualSubkeys :
    (halfC0 0x0101010101010101 = 0 ∧ halfD0 0x0101010101010101 = 0) ∧
    (halfC0 0xFEFEFEFEFEFEFEFE = BitVec.allOnes 28 ∧ halfD0 0xFEFEFEFEFEFEFEFE = BitVec.allOnes 28) ∧
    (halfC0 0xE0E0E0E0F1F1F1F1 = BitVec.allOnes 28 ∧ halfD0 0xE0E0E0E0F1F1F1F1 = 0) := by decide +kernel

/-- The halves of the rounds before round `i`, `L` first, from the block of V4.3 with the subkeys of "Super_Se". -/
def traceHalves : Nat → Half × Half
  | 0 => (0xFFFF88FF, 0x00FF80AA)
  | i + 1 =>
    ((traceHalves i).2,
      (traceHalves i).1 ^^^ roundFunction (traceHalves i).2 (subkey 0x53757065725F5365 (Fin.ofNat 16 i)))

/-- The trace of V4.3, and its last row. -/
theorem witness_NetworkIsSixteenRoundsAndTheFinalSwap :
    (traceHalves 0).1 = (0xFFFF88FF00FF80AA : Block).extractLsb' 32 32 ∧
    (traceHalves 0).2 = (0xFFFF88FF00FF80AA : Block).extractLsb' 0 32 ∧
    (∀ i : Fin 16, (traceHalves (i.val + 1)).1 = (traceHalves i.val).2 ∧
      (traceHalves (i.val + 1)).2 =
        (traceHalves i.val).1 ^^^ roundFunction (traceHalves i.val).2 (subkey 0x53757065725F5365 (if false then 15 - i else i))) ∧
    (traceHalves 16).1 = 0x88CFA768 ∧ (traceHalves 16).2 = 0xE63CF8A2 := by
  refine ⟨by decide, by decide, fun i => ⟨rfl, ?_⟩, by decide +kernel, by decide +kernel⟩
  have hi : Fin.ofNat 16 i.val = i := Fin.ext (Nat.mod_eq_of_lt i.isLt)
  rw [traceHalves, hi]
  rfl

/-- Thirteen bytes are two blocks, no bytes are none. -/
theorem witness_EncryptionMessageFollowsTheChain :
    loaded.seq = .idle ∧ loaded.kvalid = true ∧ loaded.ivvalid = true ∧
    [(0x48656C6C6F2C2077 : Block), 0x6F726C6421FFFFFF].length = ((13 : BitVec 64).toNat + 7) / 8 ∧
    ([] : List Block).length = ((0 : BitVec 64).toNat + 7) / 8 := by decide

theorem witness_DecryptionMessageFollowsTheChain :
    loaded.seq = .idle ∧ loaded.kvalid = true ∧ loaded.ivvalid = true ∧ (16 : BitVec 64).toNat % 8 = 0 ∧
    [(0x9984052F49A93F04 : Block), 0xA95EF004300ED75E].length = (16 : BitVec 64).toNat / 8 ∧
    (0 : BitVec 64).toNat % 8 = 0 ∧ ([] : List Block).length = (0 : BitVec 64).toNat / 8 := by decide

/-- V5.5: the message and the one with its first block changed, with their ciphertext blocks. -/
theorem witness_ChangedBlockDiffusesToTheEnd :
    EncryptsChain (subkey 0x53757065725F5365) 0x3031323334353637 2
      (fun k => if k = 0 then 0x4142434445464748 else 0x494A4B4C4D4E4F50)
      (fun k => if k = 0 then 0x286978B6145F66ED else 0x75BE015E0E34260F) ∧
    EncryptsChain (subkey 0x53757065725F5365) 0x3031323334353637 2
      (fun k => if k = 0 then 0x4042434445464748 else 0x494A4B4C4D4E4F50)
      (fun k => if k = 0 then 0xA5BF79CC382C85C0 else 0x44172D84FFBD90B0) ∧
    0 < 2 ∧ (0x4142434445464748 : Block) ≠ 0x4042434445464748 := by
  refine ⟨?_, ?_, by decide⟩ <;> unfold EncryptsChain <;> decide +kernel

/-- A short key, a long one and the empty one. -/
theorem witness_SetkeyLoadsTheNormalisedKey : loaded.seq = .idle ∧
    answer (step (loaded.present (.command (setKeyCmd [0x61, 0x62])))) = some 0 ∧
    answer (step (loaded.present (.command (setKeyCmd [])))) = some 0x830000000000000000 := by decide +kernel

/-- V5.6: the key "A"; an IV of 8 bytes, and a message of one byte. -/
theorem witness_DecryptOfEncryptIsThePaddedMessage :
    State.reset.seq = .idle ∧ [(0x41 : Byte)] ≠ [] ∧ [(0x30 : Byte), 0x31, 0x32, 0x33, 0x34, 0x35, 0x36, 0x37].length = 8 ∧
    [(0x41 : Byte)].length ≤ 2 ^ 64 - 8 := by decide

/-- V0.4: five bytes. -/
theorem witness_DecryptRefusesAMalformedLength :
    State.reset.seq = .idle ∧ [(0x41 : Byte)] ≠ [] ∧ [(0x30 : Byte), 0x31, 0x32, 0x33, 0x34, 0x35, 0x36, 0x37].length = 8 ∧
    [(1 : Byte), 2, 3, 4, 5].length < 2 ^ 64 ∧ [(1 : Byte), 2, 3, 4, 5].length % 8 ≠ 0 := by decide

theorem witness_EmptyKeyStopsThePseudoOperations :
    State.reset.seq = .idle ∧ [(0x30 : Byte), 0x31, 0x32, 0x33, 0x34, 0x35, 0x36, 0x37].length = 8 ∧
    [(0x41 : Byte)].length < 2 ^ 64 := by decide

theorem witness_UnhexInvertsHex : 1 < [(0x48 : Byte), 0x6C].length ∧ (hexText .lower [0x48, 0x6C])[2 * 1 + 1]? = some 'c' := by decide

/-- R202's own example, "01234567", in `IDLE` and with a message open. -/
theorem witness_SetivLoadsAnIvOfEightBytes :
    [(0x30 : Byte), 0x31, 0x32, 0x33, 0x34, 0x35, 0x36, 0x37].length = 8 ∧ State.reset.seq = .idle ∧ (encOpen 8).seq ≠ .idle ∧
    setIvCmd [0x30, 0x31, 0x32, 0x33, 0x34, 0x35, 0x36, 0x37] = some 0x02003031323334353637 := by decide +kernel

/-- The lengths on both sides of 8: a short IV is not zero-padded, a long one not cut (N6). -/
theorem witness_UndefinedPseudoOperationsIssueNothing :
    [(0x30 : Byte), 0x31, 0x32, 0x33, 0x34, 0x35, 0x36].length ≠ 8 ∧
    [(0x30 : Byte), 0x31, 0x32, 0x33, 0x34, 0x35, 0x36, 0x37, 0x38].length ≠ 8 ∧
    setIvCmd [0x30, 0x31, 0x32, 0x33, 0x34, 0x35, 0x36] = none ∧
    setIvCmd [0x30, 0x31, 0x32, 0x33, 0x34, 0x35, 0x36, 0x37, 0x38] = none := by decide +kernel

/-- A message whose length cannot be expressed exists, with an IV of 8 bytes. -/
theorem witness_UndefinedPseudoOperationsIssueNothing_length :
    2 ^ 64 ≤ (List.replicate (2 ^ 64) (0 : Byte)).length ∧ (List.replicate 8 (0 : Byte)).length = 8 :=
  ⟨Nat.le_of_eq List.length_replicate.symm, List.length_replicate⟩

end Sys2Proof.Tests
end

section
/-! The host's next move, and the step that runs it (00_scope.md rules R4 and R5, 30_encoding.md rule R74). -/

namespace Sys2Proof.Proofs

open Sys2Proof Sys2Proof.Machine

/-- A state with moves to come is the one the first of them was presented to. -/
theorem present_setScript_of_script {s : State} {ev : HostEvent} {rest : List HostEvent} (h : s.script = ev :: rest) :
    (s.setScript rest).present ev = s := by
  cases s
  cases h
  rfl

/-- Steps 1 and 2 of R74 passed: the rest of the word's meaning is its command's. -/
theorem executeWord_of_decode {w : Cmd} {i : Instr} (h : decode w = .command i) (s : State) :
    executeWord w s = exec i s := by
  simp [executeWord, h]

/-- The word at the head of the host's moves is the one that runs, in the state without it. -/
theorem step_of_script_command {s : State} {w : Cmd} {rest : List HostEvent} (h : s.script = .command w :: rest) :
    step s = executeWord w (s.setScript rest) := by
  rw [← step_present_command, present_setScript_of_script h]

/-- Settles O5: the step runs the word at the head of the moves, and a word that decodes runs its command. -/
theorem stepRunsTheDecodedCommand : Obligations.StepRunsTheDecodedCommand := by
  intro s w rest i hscript hdecode
  calc step s = executeWord w (s.setScript rest) := step_of_script_command hscript
    _ = exec i (s.setScript rest) := executeWord_of_decode hdecode _

end Sys2Proof.Proofs
end

section
/-! Success and refusal: which check of 30_encoding.md rule R74 refuses a command, and what an accepted command does (10_state.md rule R41, 60_exceptions.md rule R225). -/

namespace Sys2Proof.Proofs

open Sys2Proof Sys2Proof.Machine Sys2Proof.Claims

variable {s t : State} {i : Instr} {w : Cmd} {e : Exc}

/-! ## The response tells success from refusal (R79) -/

@[simp] theorem succeeded_respondOk (s : State) : succeeded s.respondOk :=
  ⟨_, rfl, .inl (respRcode_mkResp _ _)⟩

@[simp] theorem succeeded_respondData (d : BitVec 64) (s : State) : succeeded (s.respondData d) :=
  ⟨_, rfl, .inr (respRcode_mkResp _ _)⟩

/-- An error's result code is neither `OK` nor `OKDATA`. -/
theorem rcodeError_ne (e : Exc) : rcodeError e ≠ 0x00 ∧ rcodeError e ≠ 0x01 := by
  cases e <;> decide

@[simp] theorem not_succeeded_raise (e : Exc) (s : State) : ¬ succeeded (s.raise e) := by
  rintro ⟨r, hr, hcode⟩
  cases hr
  rw [respRcode_mkResp] at hcode
  exact hcode.elim (rcodeError_ne e).1 (rcodeError_ne e).2

/-- `raise` is the refused state of R225, written there with the result codes of R79. -/
theorem raise_eq_refusedState (e : Exc) (s : State) : s.raise e = refusedState e s := by
  cases e <;> rfl

/-! ## One command -/

/-- The check that refuses a decoded command, in the order of R74; `none` when every check passes. -/
def refusal (i : Instr) (s : State) : Option Exc :=
  match i with
  | .ldkey n _ =>
    if s.seq ≠ .idle then some .protocolError else if n = 0#8 then some .invalidKeyMaterial else none
  | .ldiv _ => if s.seq ≠ .idle then some .protocolError else none
  | .start mode len =>
    if 1#8 < mode then some .illegalCommand
    else if s.seq ≠ .idle then some .protocolError
    else if s.kvalid = false then some .invalidKeyMaterial
    else if s.ivvalid = false then some .missingIv
    else if mode = 1#8 ∧ lengthMalformed len = true then some .malformedCiphertextLength
    else none
  | .blk _ => if s.seq = .idle then some .protocolError else none
  | .rdout => if s.ovalid = false then some .outputNotValid else none
  | .nop => none
  | .abort => none
  | .rdstat => none
  | .rdrem => none
  | .clrerr => none

/-- The state after a command that passes its checks. -/
def effect : Instr → State → State
  | .nop, s => s.respondOk
  | .ldkey n key, s => (s.loadKey (keyOperand n key)).respondOk
  | .ldiv iv, s => (s.loadIv iv).respondOk
  | .start mode len, s => (s.openMessage (openedSeq mode len) len).respondOk
  | .blk data, s =>
    if s.seq = .enc then
      (s.chainStep (encOutput data s) (encOutput data s) (encBytes s)).respondData (encOutput data s)
    else (s.chainStep (decOutput data s) data Config.blockBytes).respondData (decOutput data s)
  | .abort, s => s.dropMessage.respondOk
  | .rdout, s => s.respondData s.dout
  | .rdstat, s => s.respondData (statusWord s)
  | .rdrem, s => s.respondData s.rem
  | .clrerr, s => s.clearErr.respondOk

/-- A command is refused by its failing check, or has its effect. -/
theorem exec_eq (i : Instr) (s : State) : exec i s = .next ((refusal i s).elim (effect i s) s.raise) := by
  cases i with
  | ldkey n key => simp only [exec, execLdkey, refusal]; split_ifs <;> rfl
  | ldiv iv => simp only [exec, execLdiv, refusal]; split_ifs <;> rfl
  | start mode len => simp only [exec, execStart, refusal]; split_ifs <;> rfl
  | blk data => cases hq : s.seq <;> simp [exec, execBlk, refusal, effect, hq]
  | rdout => simp only [exec, execRdout, refusal]; split_ifs <;> rfl
  | nop => rfl
  | abort => rfl
  | rdstat => rfl
  | rdrem => rfl
  | clrerr => rfl

theorem exec_of_refusal_some (h : refusal i s = some e) : exec i s = .next (s.raise e) := by
  simp [exec_eq, h]

theorem exec_of_refusal_none (h : refusal i s = none) : exec i s = .next (effect i s) := by
  simp [exec_eq, h]

theorem succeeded_effect (i : Instr) (s : State) : succeeded (effect i s) := by
  cases i
  case blk data => simp only [effect]; split <;> simp
  all_goals simp [effect]

/-- The checks look at `STATE` and the valid flags alone, and of these only at those the command reads (R41). -/
theorem refusal_congr (h : ∀ r ∈ readSet i, r ∈ [Reg.seq, .kvalid, .ivvalid, .ovalid] → sameReg s t r) :
    refusal i s = refusal i t := by
  cases i <;> simp_all [readSet, sameReg, refusal]

/-! ## One word -/

/-- The check that refuses a command word, the decoder's checks first (R74). -/
def wordRefusal (w : Cmd) (s : State) : Option Exc :=
  match decode w with
  | .command i => refusal i s
  | .illegal _ => some .illegalCommand

theorem wordRefusal_of_command (h : decode w = .command i) : wordRefusal w s = refusal i s := by
  simp [wordRefusal, h]

theorem wordRefusal_of_illegal {d : DecodeError} (h : decode w = .illegal d) :
    wordRefusal w s = some .illegalCommand := by
  simp [wordRefusal, h]

theorem executeWord_of_illegal {d : DecodeError} (h : decode w = .illegal d) (s : State) :
    executeWord w s = .next (s.raise .illegalCommand) := by
  simp [executeWord, h]

theorem executeWord_of_wordRefusal_some (h : wordRefusal w s = some e) : executeWord w s = .next (s.raise e) := by
  cases hd : decode w with
  | command i =>
    rw [wordRefusal_of_command hd] at h
    rw [executeWord_of_decode hd, exec_of_refusal_some h]
  | illegal d =>
    rw [wordRefusal_of_illegal hd] at h
    cases h
    exact executeWord_of_illegal hd s

theorem succeeded_of_wordRefusal_none (h : wordRefusal w s = none) (hx : executeWord w s = .next t) : succeeded t := by
  cases hd : decode w with
  | command i =>
    rw [wordRefusal_of_command hd] at h
    rw [executeWord_of_decode hd, exec_of_refusal_none h] at hx
    cases hx
    exact succeeded_effect i s
  | illegal d => simp [wordRefusal_of_illegal hd] at h

/-- A word that is not answered with `OK` or `OKDATA` is refused with an error. -/
theorem eq_raise_of_not_succeeded (hx : executeWord w s = .next t) (hns : ¬ succeeded t) : ∃ e, t = s.raise e := by
  cases hr : wordRefusal w s with
  | none => exact absurd (succeeded_of_wordRefusal_none hr hx) hns
  | some e =>
    rw [executeWord_of_wordRefusal_some hr] at hx
    cases hx
    exact ⟨e, rfl⟩

/-- Only a word that decodes succeeds, and then as its command. -/
theorem exists_runs_of_succeeded (hx : executeWord w s = .next t) (hs : succeeded t) :
    ∃ i, decode w = .command i ∧ Runs i s t := by
  obtain ⟨i, hdecode, hexec⟩ | ⟨_, _, rfl⟩ := executeWord_cases hx
  · exact ⟨i, hdecode, exec_runs hexec⟩
  · exact absurd hs (not_succeeded_raise _ _)

end Sys2Proof.Proofs
end

section
/-! The register invariant (10_state.md rule R37): which register writes keep it, and that every step does. -/

namespace Sys2Proof.Proofs

open Sys2Proof Sys2Proof.Machine Sys2Proof.Safety

variable {s t : State}

/-! ## One rule per register write -/

theorem regInv_respondOk (h : RegInv s) : RegInv s.respondOk := h

theorem regInv_respondData (h : RegInv s) (d : BitVec 64) : RegInv (s.respondData d) := h

theorem regInv_raise (h : RegInv s) {e : Exc} (h6 : e ≠ .malformedBitLength) (h7 : e ≠ .indexOutOfRange) :
    RegInv (s.raise e) := by
  obtain ⟨hopen, hidle, hdec, hout, -, -⟩ := h
  exact ⟨hopen, hidle, hdec, hout, by simpa using h6, by simpa using h7⟩

theorem regInv_clearErr (h : RegInv s) : RegInv s.clearErr := by
  obtain ⟨hopen, hidle, hdec, hout, -, -⟩ := h
  exact ⟨hopen, hidle, hdec, hout, by simp, by simp⟩

theorem regInv_loadKey (h : RegInv s) (k : Block) : RegInv (s.loadKey k) := by
  obtain ⟨hopen, hidle, hdec, hout, herr⟩ := h
  exact ⟨fun hq => ⟨rfl, (hopen hq).2⟩, hidle, hdec, fun ho => ⟨rfl, (hout ho).2⟩, herr⟩

theorem regInv_loadIv (h : RegInv s) (v : Block) : RegInv (s.loadIv v) := by
  obtain ⟨hopen, hidle, hdec, hout, herr⟩ := h
  exact ⟨fun hq => ⟨(hopen hq).1, rfl, (hopen hq).2.2⟩, hidle, hdec, fun ho => ⟨(hout ho).1, rfl⟩, herr⟩

theorem regInv_dropMessage (h : RegInv s) : RegInv s.dropMessage := by
  obtain ⟨-, -, -, -, herr⟩ := h
  exact ⟨by simp, by simp, by simp, by simp, herr⟩

/-- A message is opened in `IDLE` exactly when it has no bytes (R163). -/
theorem openedSeq_eq_idle (mode : BitVec 8) (len : BitVec 64) : openedSeq mode len = .idle ↔ len = 0#64 := by
  unfold openedSeq
  split_ifs <;> simp_all

/-- A message opened for decryption has a mode that is not 0 (R163). -/
theorem mode_ne_zero_of_openedSeq_dec {mode : BitVec 8} {len : BitVec 64} (h : openedSeq mode len = .dec) :
    mode ≠ 0#8 := by
  rintro rfl
  unfold openedSeq at h
  split at h <;> simp at h

/-- The checks of `START` are what the invariant asks of an open message. -/
theorem regInv_openMessage {mode : BitVec 8} {len : BitVec 64} (h : RegInv s) (hmode : mode ≤ 1#8)
    (hk : s.kvalid = true) (hiv : s.ivvalid = true) (hlen : mode = 1#8 → lengthMalformed len = false) :
    RegInv (s.openMessage (openedSeq mode len) len) := by
  obtain ⟨-, -, -, -, herr⟩ := h
  refine ⟨fun hq => ⟨hk, hiv, mt (openedSeq_eq_idle mode len).2 hq⟩, (openedSeq_eq_idle mode len).1, fun hq => ?_,
    fun ho => by simp at ho, herr⟩
  have hone : mode = 1#8 := (mode_cases hmode).resolve_left (mode_ne_zero_of_openedSeq_dec hq)
  simpa [lengthMalformed] using hlen hone

/-- A block keeps the invariant in an open message: in `DEC` it takes off 8 bytes, and the message ends with its last byte. -/
theorem regInv_chainStep {n : Nat} (h : RegInv s) (hopenSeq : s.seq ≠ .idle) (hn : s.seq = .dec → n = 8)
    (out chain : Block) : RegInv (s.chainStep out chain n) := by
  obtain ⟨hopen, -, hdec, -, herr⟩ := h
  obtain ⟨hk, hiv, -⟩ := hopen hopenSeq
  have hseq := State.chainStep_seq_cases s out chain n
  refine ⟨fun hq => ⟨hk, hiv, fun hrem => hq ?_⟩, fun hq => ?_, fun hq => ?_, fun _ => ⟨hk, hiv⟩, herr⟩
  · rw [hseq, if_pos hrem]
  · by_contra hrem
    rw [hseq, if_neg hrem] at hq
    exact hopenSeq hq
  · have hold : s.seq = .dec := by
      rw [hseq] at hq
      split at hq
      · cases hq
      · exact hq
    have hrest := hdec hold
    rw [State.chainStep_rem_toNat, hn hold]
    omega

/-! ## Commands, words and steps -/

theorem runs_regInv {i : Instr} (h : RegInv s) (hr : Runs i s t) : RegInv t := by
  cases hr with
  | refused h6 h7 => exact regInv_raise h h6 h7
  | nop => exact regInv_respondOk h
  | ldkey => exact regInv_respondOk (regInv_loadKey h _)
  | ldiv => exact regInv_respondOk (regInv_loadIv h _)
  | start hmode _ hk hiv hlen => exact regInv_respondOk (regInv_openMessage h hmode hk hiv hlen)
  | enc hq => exact regInv_respondData (regInv_chainStep h (by simp [hq]) (by simp [hq]) _ _) _
  | dec hq => exact regInv_respondData (regInv_chainStep h (by simp [hq]) (fun _ => rfl) _ _) _
  | abort => exact regInv_respondOk (regInv_dropMessage h)
  | rdout => exact regInv_respondData h _
  | rdstat => exact regInv_respondData h _
  | rdrem => exact regInv_respondData h _
  | clrerr => exact regInv_respondOk (regInv_clearErr h)

theorem executeWord_regInv {w : Cmd} (h : RegInv s) (hx : executeWord w s = .next t) : RegInv t := by
  obtain ⟨i, -, hexec⟩ | ⟨_, -, rfl⟩ := executeWord_cases hx
  · exact runs_regInv h (exec_runs hexec)
  · exact regInv_raise h (by decide) (by decide)

/-- Settles O31: after reset every clause holds for lack of its premise, but for `REM = 0`, which reset writes. -/
theorem resetMeetsTheRegisterInvariant : Obligations.ResetMeetsTheRegisterInvariant := by
  unfold Obligations.ResetMeetsTheRegisterInvariant
  exact ⟨fun hq => absurd rfl hq, fun _ => rfl, nofun, nofun, nofun, nofun⟩

/-- Settles O30, by the cases of the step: a word keeps the invariant by the rule of each register write, the reset event
gives the state after reset. -/
theorem stepKeepsTheRegisterInvariant : Obligations.StepKeepsTheRegisterInvariant := by
  intro s t hinv hstep
  obtain ⟨w, rest, -, hword⟩ | ⟨rest, -, rfl⟩ := step_cases hstep
  · have hrest : RegInv (s.setScript rest) := hinv
    exact executeWord_regInv hrest hword
  · exact resetMeetsTheRegisterInvariant

end Sys2Proof.Proofs
end

section
/-! The bits of registers that hold no value are unobservable (10_state.md rule R40, U12): two states the host cannot tell apart fail the same checks, and every register write keeps them so. -/

namespace Sys2Proof.Proofs

open Sys2Proof Sys2Proof.Machine Sys2Proof.Safety Sys2Proof.Claims

variable {s t : State}

/-! ## One rule per register write -/

theorem sameToHost_setScript (h : SameToHost s t) (rest : List HostEvent) :
    SameToHost (s.setScript rest) (t.setScript rest) := by
  simp_all [SameToHost]

theorem sameToHost_respondOk (h : SameToHost s t) : SameToHost s.respondOk t.respondOk := by
  simp_all [SameToHost]

theorem sameToHost_respondData (h : SameToHost s t) {d d' : BitVec 64} (hd : d = d') :
    SameToHost (s.respondData d) (t.respondData d') := by
  simp_all [SameToHost]

theorem sameToHost_raise (h : SameToHost s t) (e : Exc) : SameToHost (s.raise e) (t.raise e) := by
  simp_all [SameToHost]

theorem sameToHost_clearErr (h : SameToHost s t) : SameToHost s.clearErr t.clearErr := by
  simp_all [SameToHost]

theorem sameToHost_loadKey (h : SameToHost s t) (k : Block) : SameToHost (s.loadKey k) (t.loadKey k) := by
  simp_all [SameToHost]

theorem sameToHost_loadIv (h : SameToHost s t) (v : Block) : SameToHost (s.loadIv v) (t.loadIv v) := by
  simp_all [SameToHost]

theorem sameToHost_dropMessage (h : SameToHost s t) : SameToHost s.dropMessage t.dropMessage := by
  simp_all [SameToHost]

/-- `START` copies `IV` into `PREV`, so it needs an `IV` that holds a value. -/
theorem sameToHost_openMessage (h : SameToHost s t) (hiv : s.ivvalid = true) (q : Seq) (len : BitVec 64) :
    SameToHost (s.openMessage q len) (t.openMessage q len) := by
  simp_all [SameToHost]

theorem sameToHost_chainStep (h : SameToHost s t) {out out' chain chain' : Block} (hout : out = out')
    (hchain : chain = chain') (n : Nat) : SameToHost (s.chainStep out chain n) (t.chainStep out' chain' n) := by
  simp_all [SameToHost]

/-! ## Commands and words -/

/-- The registers that tell whether a register holds a value hold one themselves. -/
theorem refusal_eq_of_sameToHost (h : SameToHost s t) (i : Instr) : refusal i s = refusal i t := by
  obtain ⟨hk, hiv, ho, hq, -⟩ := h
  refine refusal_congr fun r _ hr => ?_
  simp only [List.mem_cons, List.not_mem_nil, or_false] at hr
  obtain rfl | rfl | rfl | rfl := hr
  · exact hq
  · exact hk
  · exact hiv
  · exact ho

theorem wordRefusal_eq_of_sameToHost (h : SameToHost s t) (w : Cmd) : wordRefusal w s = wordRefusal w t := by
  cases hd : decode w with
  | command i => simp only [wordRefusal_of_command hd, refusal_eq_of_sameToHost h]
  | illegal d => simp only [wordRefusal_of_illegal hd]

/-- A block is computed with a message open, when `KEY` and `PREV` hold values. -/
theorem sameToHost_effect_blk (hinv : RegInv s) (h : SameToHost s t) (hq : s.seq ≠ .idle) (data : Block) :
    SameToHost (effect (.blk data) s) (effect (.blk data) t) := by
  obtain ⟨hopen, -⟩ := hinv
  obtain ⟨-, -, -, hseq, hrem, -, -, -, hkey, -, hprev, -⟩ := id h
  have hk : s.key = t.key := hkey (hopen hq).1
  have hp : s.prev = t.prev := hprev hq
  have henc := encOutput_congr hk hp hrem data
  have hdec := decOutput_congr hk hp data
  simp only [effect, ← hseq]
  split
  · rw [← encBytes_congr hrem]
    exact sameToHost_respondData (sameToHost_chainStep h henc henc _) henc
  · exact sameToHost_respondData (sameToHost_chainStep h hdec rfl _) hdec

theorem sameToHost_effect {i : Instr} (hinv : RegInv s) (h : SameToHost s t) (hok : refusal i s = none) :
    SameToHost (effect i s) (effect i t) := by
  cases i with
  | nop => exact sameToHost_respondOk h
  | ldkey => exact sameToHost_respondOk (sameToHost_loadKey h _)
  | ldiv => exact sameToHost_respondOk (sameToHost_loadIv h _)
  | start mode len =>
    have hiv : s.ivvalid = true := by
      simp only [refusal] at hok
      split_ifs at hok with _ _ _ h4
      simpa using h4
    exact sameToHost_respondOk (sameToHost_openMessage h hiv _ _)
  | blk data => exact sameToHost_effect_blk hinv h (by simpa [refusal] using hok) data
  | abort => exact sameToHost_respondOk (sameToHost_dropMessage h)
  | rdout =>
    have ho : s.ovalid = true := by simpa [refusal] using hok
    obtain ⟨-, -, -, -, -, -, -, -, -, -, -, hdout⟩ := id h
    exact sameToHost_respondData h (hdout ho)
  | rdstat =>
    obtain ⟨hk, hiv, ho, hq, -, he, -⟩ := id h
    exact sameToHost_respondData h (by simp [statusWord, hk, hiv, ho, hq, he])
  | rdrem =>
    obtain ⟨-, -, -, -, hrem, -⟩ := id h
    exact sameToHost_respondData h hrem
  | clrerr => exact sameToHost_respondOk (sameToHost_clearErr h)

theorem executeWord_sameToHost {w : Cmd} {s' : State} (hinv : RegInv s) (h : SameToHost s t)
    (hx : executeWord w s = .next s') : ∃ t', executeWord w t = .next t' ∧ SameToHost s' t' := by
  cases hr : wordRefusal w s with
  | some e =>
    rw [executeWord_of_wordRefusal_some hr] at hx
    cases hx
    rw [wordRefusal_eq_of_sameToHost h] at hr
    exact ⟨_, executeWord_of_wordRefusal_some hr, sameToHost_raise h e⟩
  | none =>
    cases hd : decode w with
    | illegal d => simp [wordRefusal_of_illegal hd] at hr
    | command i =>
      rw [wordRefusal_of_command hd] at hr
      rw [executeWord_of_decode hd, exec_of_refusal_none hr] at hx
      cases hx
      have hrt : refusal i t = none := refusal_eq_of_sameToHost h i ▸ hr
      exact ⟨_, (executeWord_of_decode hd t).trans (exec_of_refusal_none hrt), sameToHost_effect hinv h hr⟩

/-! ## Steps -/

theorem step_of_script_reset {rest : List HostEvent} (h : s.script = .reset :: rest) :
    step s = .next (State.reset.setScript rest) := by
  rw [← present_setScript_of_script h]
  rfl

/-- A machine stops only where nothing is presented, and then by `noCommand`. -/
theorem step_of_script_nil (h : s.script = []) : step s = .fault .noCommand := by
  simp [step, State.fetch, h]

/-- Where something is presented a step has a next state. -/
theorem step_next_of_script_cons {ev : HostEvent} {rest : List HostEvent} (h : s.script = ev :: rest) :
    ∃ s', step s = .next s' := by
  cases ev with
  | command w => rw [step_of_script_command h]; exact executeWord_next w _
  | reset => exact ⟨_, step_of_script_reset h⟩

theorem step_sameToHost {s' : State} (hinv : RegInv s) (h : SameToHost s t) (hstep : step s = .next s') :
    ∃ t', step t = .next t' ∧ SameToHost s' t' := by
  obtain ⟨-, -, -, -, -, -, -, hscript, -⟩ := id h
  obtain ⟨w, rest, hs, hword⟩ | ⟨rest, hs, rfl⟩ := step_cases hstep
  · have hinv' : RegInv (s.setScript rest) := hinv
    rw [step_of_script_command (hscript ▸ hs)]
    exact executeWord_sameToHost hinv' (sameToHost_setScript h rest) hword
  · exact ⟨_, step_of_script_reset (hscript ▸ hs), by simp [SameToHost]⟩

/-- Settles O32: a next state has its counterpart, and the stops are those of an empty port, which both states share. -/
theorem unspecifiedBitsAreUnobservable : Obligations.UnspecifiedBitsAreUnobservable := by
  intro s t hinv h
  obtain ⟨-, -, -, -, -, -, -, hscript, -⟩ := id h
  refine ⟨fun s' => step_sameToHost hinv h, ?_⟩
  cases hs : s.script with
  | nil => simp [step_of_script_nil hs, step_of_script_nil (hscript ▸ hs)]
  | cons ev rest =>
    obtain ⟨s', hnext⟩ := step_next_of_script_cons hs
    simp [hnext]

end Sys2Proof.Proofs
end

section
/-! What a command writes and what it depends on (10_state.md rule R41): the registers each operation leaves, the frame of a command, and two executions that agree on what the command reads. -/

namespace Sys2Proof.Proofs

open Sys2Proof Sys2Proof.Machine Sys2Proof.Claims

variable {s t : State} {i : Instr} {r : Reg}

/-! ## What each operation leaves unchanged -/

theorem sameReg_rfl (s : State) (r : Reg) : sameReg s s r := by
  cases r <;> rfl

/-- The response port is no register (log 2). -/
theorem sameReg_respondOk (s t : State) (r : Reg) : sameReg s t.respondOk r = sameReg s t r := by
  cases r <;> rfl

theorem sameReg_respondData (s t : State) (d : BitVec 64) (r : Reg) :
    sameReg s (t.respondData d) r = sameReg s t r := by
  cases r <;> rfl

theorem sameReg_raise (s : State) (e : Exc) (hr : r ≠ .err) : sameReg s (s.raise e) r := by
  cases r <;> simp_all [sameReg]

theorem sameReg_clearErr (s : State) (hr : r ∉ [Reg.err]) : sameReg s s.clearErr r := by
  cases r <;> simp_all [sameReg]

theorem sameReg_loadKey (s : State) (k : Block) (hr : r ∉ [Reg.key, .kvalid]) : sameReg s (s.loadKey k) r := by
  cases r <;> simp_all [sameReg]

theorem sameReg_loadIv (s : State) (v : Block) (hr : r ∉ [Reg.iv, .ivvalid]) : sameReg s (s.loadIv v) r := by
  cases r <;> simp_all [sameReg]

theorem sameReg_openMessage (s : State) (q : Machine.Seq) (len : BitVec 64) (hr : r ∉ [Reg.prev, .rem, .seq, .ovalid]) :
    sameReg s (s.openMessage q len) r := by
  cases r <;> simp_all [sameReg]

theorem sameReg_chainStep (s : State) (out chain : Block) (n : Nat) (hr : r ∉ [Reg.dout, .ovalid, .prev, .rem, .seq]) :
    sameReg s (s.chainStep out chain n) r := by
  cases r <;> simp_all [sameReg]

theorem sameReg_dropMessage (s : State) (hr : r ∉ [Reg.seq, .rem, .ovalid]) : sameReg s s.dropMessage r := by
  cases r <;> simp_all [sameReg]

/-! ## The frame -/

/-- A refused command leaves every register but `ERR`, a successful one every register outside its write set. -/
theorem runs_frame (hr : Runs i s t) :
    (succeeded t → ∀ r, r ∉ writeSet i → sameReg s t r) ∧ (¬ succeeded t → ∀ r, r ≠ .err → sameReg s t r) := by
  cases hr with
  | refused => exact ⟨fun hs => absurd hs (not_succeeded_raise _ _), fun _ _ => sameReg_raise s _⟩
  | nop => simp [sameReg_respondOk, sameReg_rfl]
  | ldkey => simpa [sameReg_respondOk, writeSet] using fun _ => sameReg_loadKey s _
  | ldiv => simpa [sameReg_respondOk, writeSet] using fun _ => sameReg_loadIv s _
  | start => simpa [sameReg_respondOk, writeSet] using fun _ => sameReg_openMessage s _ _
  | enc => simpa [sameReg_respondData, writeSet] using fun _ => sameReg_chainStep s _ _ _
  | dec => simpa [sameReg_respondData, writeSet] using fun _ => sameReg_chainStep s _ _ _
  | abort => simpa [sameReg_respondOk, writeSet] using fun _ => sameReg_dropMessage s
  | rdout => simp [sameReg_respondData, sameReg_rfl]
  | rdstat => simp [sameReg_respondData, sameReg_rfl]
  | rdrem => simp [sameReg_respondData, sameReg_rfl]
  | clrerr => simpa [sameReg_respondOk, writeSet] using fun _ => sameReg_clearErr s

/-- Settles O21, by the frame of each case of the execution. -/
theorem commandsWriteOnlyTheirWriteSet : Obligations.CommandsWriteOnlyTheirWriteSet := by
  intro i s t h
  exact ⟨exec_script h, runs_frame (exec_runs h)⟩

/-! ## What a command depends on -/

/-- From two states that agree on a command's read set its effect is the same answer and the same writes. -/
theorem effect_congr (h : ∀ r ∈ readSet i, sameReg s t r) :
    (effect i s).resp = (effect i t).resp ∧ ∀ r ∈ writeSet i, sameReg (effect i s) (effect i t) r := by
  cases i with
  | nop => simp [effect, writeSet]
  | ldkey n key => simp [effect, writeSet, sameReg]
  | ldiv iv => simp [effect, writeSet, sameReg]
  | start mode len => simp_all [effect, readSet, writeSet, sameReg]
  | blk data =>
    simp only [readSet, List.forall_mem_cons, sameReg] at h
    obtain ⟨hseq, hrem, hkey, hprev, -⟩ := h
    have henc := encOutput_congr hkey hprev hrem data
    have hdec := decOutput_congr hkey hprev data
    have hn := encBytes_congr hrem
    simp only [effect, hseq]
    split <;> simp [writeSet, sameReg, *]
  | abort => simp [effect, writeSet, sameReg]
  | rdout => simp_all [effect, readSet, writeSet, sameReg]
  | rdstat => simp_all [effect, readSet, writeSet, sameReg, statusWord]
  | rdrem => simp_all [effect, readSet, writeSet, sameReg]
  | clrerr => simp [effect, writeSet, sameReg]

/-- Settles O22: the two executions fail the same check, or both have the command's effect. -/
theorem commandsDependOnlyOnTheirReadSet : Obligations.CommandsDependOnlyOnTheirReadSet := by
  intro i s t s' t' h hs ht
  have hsame : refusal i s = refusal i t := refusal_congr fun r hr _ => h r hr
  cases href : refusal i s with
  | some e =>
    rw [exec_of_refusal_some href] at hs
    rw [exec_of_refusal_some (hsame ▸ href)] at ht
    cases hs
    cases ht
    exact ⟨rfl, fun hok => absurd hok (not_succeeded_raise e s)⟩
  | none =>
    rw [exec_of_refusal_none href] at hs
    rw [exec_of_refusal_none (hsame ▸ href)] at ht
    cases hs
    cases ht
    obtain ⟨hresp, hwrites⟩ := effect_congr h
    exact ⟨hresp, fun _ => hwrites⟩

end Sys2Proof.Proofs
end

section
/-! The machine's rules register by register (10_state.md sections 2 to 4 and 7): what reset leaves, which commands change `STATE`, the valid flags, `ERR` and the data registers. -/

namespace Sys2Proof.Proofs

open Sys2Proof Sys2Proof.Machine Sys2Proof.Claims

variable {s t : State} {i : Instr} {w : Cmd}

/-! ## Reset (R40, R260) -/

theorem statusWord_resetEvent (s : State) : statusWord s.resetEvent = 0 := by
  simp only [statusWord, State.resetEvent_seq, State.resetEvent_kvalid, State.resetEvent_ivvalid,
    State.resetEvent_ovalid, State.resetEvent_err]
  decide

/-- The word of `RDSTAT` answers `STATUS` (R181). -/
theorem afterWord_rdstat (s : State) : afterWord 0x21 0 0 s = .next (s.respondData (statusWord s)) := by
  rw [afterWord, step_present_command, executeWord_of_decode (i := .rdstat) (by decide)]
  rfl

/-- Settles O29: `State.reset` and the reset event field by field, and `RDSTAT` on the status word they leave. -/
theorem resetLeavesTheStatedValues : Obligations.ResetLeavesTheStatedValues := by
  refine ⟨⟨rfl, rfl, rfl, rfl, rfl, rfl⟩, fun s => ?_⟩
  refine ⟨s.resetEvent, step_present_reset s, rfl, rfl, rfl, rfl, rfl, rfl, rfl, rfl, ?_⟩
  rw [afterWord_rdstat, statusWord_resetEvent]
  rfl

/-! ## What a presented word leaves (R41) -/

/-- A word that is refused leaves every register but `ERR`. -/
theorem sameReg_of_not_succeeded (hx : executeWord w s = .next t) (hns : ¬ succeeded t) {r : Reg} (hr : r ≠ .err) :
    sameReg s t r := by
  obtain ⟨e, rfl⟩ := eq_raise_of_not_succeeded hx hns
  exact sameReg_raise s e hr

/-! ## `STATE` (R29) -/

theorem runs_start_seq {mode : BitVec 8} {len : BitVec 64} (hr : Runs (.start mode len) s t) (hs : succeeded t) :
    s.seq = .idle ∧ t.seq = openedSeq mode len := by
  cases hr with
  | refused => exact absurd hs (not_succeeded_raise _ _)
  | start _ hidle => exact ⟨hidle, rfl⟩

theorem runs_blk_seq {data : Block} (hr : Runs (.blk data) s t) (hs : succeeded t) :
    t.seq = if t.rem = 0 then .idle else s.seq := by
  cases hr with
  | refused => exact absurd hs (not_succeeded_raise _ _)
  | enc => exact State.chainStep_seq_cases s (encOutput data s) (encOutput data s) _
  | dec => exact State.chainStep_seq_cases s (decOutput data s) data _

theorem runs_abort_seq (hr : Runs .abort s t) (hs : succeeded t) : t.seq = .idle := by
  cases hr with
  | refused => exact absurd hs (not_succeeded_raise _ _)
  | abort => rfl

/-- The write sets that hold `STATE` are those of `START`, `BLK` and `ABORT`. -/
theorem seq_notMem_writeSet (h : ∀ m len d, i ≠ .start m len ∧ i ≠ .blk d ∧ i ≠ .abort) : Reg.seq ∉ writeSet i := by
  cases i <;> simp_all [writeSet]

/-- Settles O24: a refused word leaves `STATE`, and a successful one is the run of its command. -/
theorem stateChangesOnlyAsListed : Obligations.StateChangesOnlyAsListed := by
  refine ⟨⟨rfl, rfl, rfl⟩, fun s => ⟨_, step_present_reset s, rfl⟩, fun w s t hstep => ?_⟩
  rw [step_present_command] at hstep
  refine ⟨fun hns => (sameReg_of_not_succeeded hstep hns (r := .seq) (by decide)).symm, fun hs => ?_⟩
  obtain ⟨i, hdecode, hrun⟩ := exists_runs_of_succeeded hstep hs
  rw [hdecode]
  refine ⟨fun len hi => ?_, fun len hi => ?_, fun d hi => ?_, fun hi => ?_, fun hother => ?_⟩
  · cases hi
    simpa [openedSeq] using runs_start_seq hrun hs
  · cases hi
    simpa [openedSeq] using runs_start_seq hrun hs
  · cases hi
    exact runs_blk_seq hrun hs
  · cases hi
    exact runs_abort_seq hrun hs
  · have hw : Reg.seq ∉ writeSet i := seq_notMem_writeSet (by simpa using hother)
    exact ((runs_frame hrun).1 hs .seq hw).symm

/-! ## `KVALID` and `IVVALID` (R22, R24) -/

theorem runs_kvalid (hr : Runs i s t) (hk : s.kvalid = true) : t.kvalid = true := by
  cases hr with
  | ldkey => rfl
  | _ => exact hk

theorem runs_ivvalid (hr : Runs i s t) (hiv : s.ivvalid = true) : t.ivvalid = true := by
  cases hr with
  | ldiv => rfl
  | _ => exact hiv

theorem runs_ldkey_kvalid {n : BitVec 8} {key : Block} (hr : Runs (.ldkey n key) s t) (hs : succeeded t) :
    t.kvalid = true := by
  cases hr with
  | refused => exact absurd hs (not_succeeded_raise _ _)
  | ldkey => rfl

theorem runs_ldiv_ivvalid {iv : Block} (hr : Runs (.ldiv iv) s t) (hs : succeeded t) : t.ivvalid = true := by
  cases hr with
  | refused => exact absurd hs (not_succeeded_raise _ _)
  | ldiv => rfl

theorem executeWord_keeps_valid (hx : executeWord w s = .next t) :
    (s.kvalid = true → t.kvalid = true) ∧ (s.ivvalid = true → t.ivvalid = true) := by
  obtain ⟨i, -, hexec⟩ | ⟨_, -, rfl⟩ := executeWord_cases hx
  · exact ⟨runs_kvalid (exec_runs hexec), runs_ivvalid (exec_runs hexec)⟩
  · exact ⟨id, id⟩

/-- The word of `START` in a mode that is not reserved runs `START`. -/
theorem afterWord_start {mode : BitVec 8} (hmode : mode ≤ 1#8) (len : BitVec 64) (s : State) :
    afterWord 0x10 mode len s = exec (.start mode len) s := by
  have hdecode : decode (mkCmd 0x10 mode len) = .command (.start mode len) := by
    simp [decodeFields, decodeStart_eq_command, hmode]
  rw [afterWord, step_present_command, executeWord_of_decode hdecode]

/-- Settles O25: the flags by the cases of a run, and the two refusals of `START` by its checks. -/
theorem validFlagsAreClearedByResetAlone : Obligations.ValidFlagsAreClearedByResetAlone := by
  refine ⟨fun s => ⟨_, step_present_reset s, rfl, rfl⟩, fun w s t hstep => ?_, fun mode len s hmode hidle => ?_⟩
  · rw [step_present_command] at hstep
    obtain ⟨hk, hiv⟩ := executeWord_keeps_valid hstep
    refine ⟨hk, hiv, fun n key hd hs => ?_, fun iv hd hs => ?_⟩
    · rw [executeWord_of_decode hd] at hstep
      exact runs_ldkey_kvalid (exec_runs hstep) hs
    · rw [executeWord_of_decode hd] at hstep
      exact runs_ldiv_ivvalid (exec_runs hstep) hs
  · have hle : mode ≤ 1#8 := hmode
    have hlt : ¬ 1#8 < mode := BitVec.not_lt.mpr hle
    rw [afterWord_start hle]
    refine ⟨fun hk => ?_, fun hk hiv => ?_⟩
    · rw [exec_of_refusal_some (e := .invalidKeyMaterial) (by simp [refusal, hlt, hidle, hk]),
        raise_eq_refusedState]
    · rw [exec_of_refusal_some (e := .missingIv) (by simp [refusal, hlt, hidle, hk, hiv]), raise_eq_refusedState]

/-! ## `ERR` (R31) -/

theorem exec_clrerr_err (h : exec .clrerr s = .next t) : t.err = none := by
  cases h
  rfl

/-- The only write set that holds `ERR` is that of `CLRERR`. -/
theorem err_notMem_writeSet (h : i ≠ .clrerr) : Reg.err ∉ writeSet i := by
  cases i <;> simp_all [writeSet]

/-- No check looks at `ERR`. -/
theorem wordRefusal_err (w : Cmd) (e : Option Exc) (s : State) : wordRefusal w { s with err := e } = wordRefusal w s := by
  cases hd : decode w with
  | command i =>
    rw [wordRefusal_of_command hd, wordRefusal_of_command hd]
    cases i <;> rfl
  | illegal d => rw [wordRefusal_of_illegal hd, wordRefusal_of_illegal hd]

/-- Settles O26: the error record by the frame, and its gating nothing by the checks, which do not look at it. -/
theorem errRecordsRefusalsAndGatesNothing : Obligations.ErrRecordsRefusalsAndGatesNothing := by
  refine ⟨fun s => ⟨_, step_present_reset s, rfl⟩, fun w s t hstep => ?_, fun w e s t u hstep hstep' => ?_⟩
  · rw [step_present_command] at hstep
    refine ⟨fun hd => ?_, fun hs hne => ?_, fun hns => ?_⟩
    · rw [executeWord_of_decode hd] at hstep
      exact exec_clrerr_err hstep
    · obtain ⟨i, hd, hrun⟩ := exists_runs_of_succeeded hstep hs
      have hi : i ≠ .clrerr := fun hi => hne (hi ▸ hd)
      exact ((runs_frame hrun).1 hs .err (err_notMem_writeSet hi)).symm
    · obtain ⟨e, rfl⟩ := eq_raise_of_not_succeeded hstep hns
      rw [raise_eq_refusedState]
      exact ⟨e, rfl, rfl⟩
  · rw [step_present_command] at hstep hstep'
    cases hr : wordRefusal w s with
    | some x =>
      rw [executeWord_of_wordRefusal_some hr] at hstep
      rw [executeWord_of_wordRefusal_some ((wordRefusal_err w e s).trans hr)] at hstep'
      cases hstep
      cases hstep'
      exact ⟨by simp, fun _ => rfl⟩
    | none =>
      have hs := succeeded_of_wordRefusal_none hr hstep
      have hs' := succeeded_of_wordRefusal_none ((wordRefusal_err w e s).trans hr) hstep'
      exact ⟨iff_of_true hs hs', fun hns => absurd hs hns⟩

/-! ## `KEY`, `IV`, `DOUT` and `PREV` (R21, R23, R25, R26) -/

theorem runs_key_ne (hr : Runs i s t) (hne : t.key ≠ s.key) : s.seq = .idle ∧ ∃ n key, n ≠ 0 ∧ i = .ldkey n key := by
  cases hr with
  | ldkey hidle hn => exact ⟨hidle, _, _, hn, rfl⟩
  | _ => exact absurd rfl hne

theorem runs_iv_ne (hr : Runs i s t) (hne : t.iv ≠ s.iv) : s.seq = .idle ∧ i = .ldiv t.iv := by
  cases hr with
  | ldiv hidle => exact ⟨hidle, rfl⟩
  | _ => exact absurd rfl hne

theorem runs_dout_ne (hr : Runs i s t) (hne : t.dout ≠ s.dout) : s.seq ≠ .idle ∧ ∃ d, i = .blk d := by
  cases hr with
  | enc hq => exact ⟨by simp [hq], _, rfl⟩
  | dec hq => exact ⟨by simp [hq], _, rfl⟩
  | _ => exact absurd rfl hne

theorem runs_prev_ne (hr : Runs i s t) (hne : t.prev ≠ s.prev) :
    (∃ m len, i = .start m len ∧ t.prev = s.iv) ∨ ∃ d, i = .blk d := by
  cases hr with
  | start => exact .inl ⟨_, _, rfl, rfl⟩
  | enc => exact .inr ⟨_, rfl⟩
  | dec => exact .inr ⟨_, rfl⟩
  | _ => exact absurd rfl hne

/-- Settles O28: an illegal word leaves the four registers, and a command changes one only where its run writes it. -/
theorem dataRegistersChangeOnlyByTheirCommands : Obligations.DataRegistersChangeOnlyByTheirCommands := by
  intro w s t hstep
  rw [step_present_command] at hstep
  obtain ⟨i, hd, hexec⟩ | ⟨_, -, rfl⟩ := executeWord_cases hstep
  · have hrun := exec_runs hexec
    simp only [hd, Decoded.command.injEq]
    exact ⟨runs_key_ne hrun, runs_iv_ne hrun, runs_dout_ne hrun, runs_prev_ne hrun⟩
  · simp

end Sys2Proof.Proofs
end

section
/-! The bit codec and the block fields (20_memory.md rules R51 to R53): each operation on bytes and blocks, bit by bit and byte by byte. The lemmas about `be64` hold for every number of bytes, since its field is zero-padded and cut at 64 bits. -/

namespace Sys2Proof.Proofs

open Sys2Proof Sys2Proof.Machine

/-! ## `encodeBits` (R51) -/

@[simp] theorem encodeBits_length (bytes : List Byte) : (encodeBits bytes).length = 8 * bytes.length :=
  length_flatMap_of_groups toBits_length bytes

/-- Beyond the last byte both sides are zero. -/
theorem encodeBits_getD (bytes : List Byte) (j : Nat) {t : Nat} (ht : t < 8) :
    (encodeBits bytes).getD (8 * j + t) false = (bytes.getD j 0).getMsbD t := by
  have hgroup : (encodeBits bytes)[8 * j + t]? = bytes[j]?.bind fun b => (toBits b)[t]? :=
    getElem?_flatMap_of_groups toBits_length bytes j ht
  rw [List.getD_eq_getElem?_getD, List.getD_eq_getElem?_getD, hgroup]
  cases bytes[j]? with
  | none => simp
  | some b => simpa using toBits_getD b t

/-- Settles O33: the group lemmas at 8 bits a byte; a byte's bit `t` from the left is its bit `7 - t` from the right. -/
theorem encodeBitsIsMostSignificantFirst : Obligations.EncodeBitsIsMostSignificantFirst := by
  refine fun bytes => ⟨encodeBits_length bytes, fun j _ t ht => ?_⟩
  rw [encodeBits_getD bytes j ht]
  simp [BitVec.getMsbD, ht]

/-! ## The 64-bit field `be64` and its bytes (R52) -/

theorem be64_getMsbD (bytes : List Byte) {i : Nat} (hi : i < 64) :
    (be64 bytes).getMsbD i = (encodeBits bytes).getD i false := by
  rw [be64, ofBits_getMsbD (by simp), List.getD_eq_getElem?_getD, List.getElem?_take_of_lt hi,
    ← List.getD_eq_getElem?_getD]
  by_cases hlen : i < (encodeBits bytes).length
  · rw [List.getD_append _ _ _ _ hlen]
  · have hge : (encodeBits bytes).length ≤ i := Nat.le_of_not_lt hlen
    rw [List.getD_append_right _ _ _ _ hge, List.getD_eq_default (encodeBits bytes) _ hge, List.getD_eq_getElem?_getD,
      List.getElem?_getD_replicate_default_eq]

/-- Past the last byte the field's bytes are zero (R200). -/
theorem byteAt_be64 (bytes : List Byte) {j : Nat} (hj : j < 8) : byteAt (be64 bytes) j = bytes.getD j 0 := by
  apply BitVec.eq_of_getMsbD_eq
  intro t ht
  rw [byteAt_getMsbD _ hj, be64_getMsbD _ (by omega), encodeBits_getD _ _ ht]
  simp [ht]

/-- `byte_j(v)` by the field's least-significant-first indices (R13). -/
theorem byteAt_eq_extractLsb' (v : Block) (j : Nat) : byteAt v j = v.extractLsb' (56 - 8 * j) 8 := by
  have hstart : 64 - 8 * j - 8 = 56 - 8 * j := by omega
  rw [byteAt, slice, hstart]

@[simp] theorem bytes8_length (v : Block) : (bytes8 v).length = 8 := by simp [bytes8]

theorem bytes8_getD (v : Block) {j : Nat} (hj : j < 8) : (bytes8 v).getD j 0 = byteAt v j := by
  simp [bytes8, hj]

theorem bytes8_be64 {bytes : List Byte} (h : bytes.length = 8) : bytes8 (be64 bytes) = bytes := by
  refine List.ext_getElem (by simp [h]) fun j hj hj' => ?_
  rw [← List.getD_eq_getElem _ 0 hj, ← List.getD_eq_getElem _ 0 hj', bytes8_getD _ (h ▸ hj'), byteAt_be64 _ (h ▸ hj')]

theorem be64_bytes8 (v : Block) : be64 (bytes8 v) = v := by
  apply BitVec.eq_of_getMsbD_eq
  intro i hi
  have hj : i / 8 < 8 := by omega
  have ht : i % 8 < 8 := by omega
  rw [be64_getMsbD _ hi, ← Nat.div_add_mod i 8, encodeBits_getD _ _ ht, bytes8_getD _ hj, byteAt_getMsbD _ hj]
  simp [ht]

theorem toBits_be64 {bytes : List Byte} (h : bytes.length = 8) : toBits (be64 bytes) = encodeBits bytes := by
  refine List.ext_getElem (by simp [h]) fun i hi hi' => ?_
  have h64 : i < 64 := by simpa using hi
  rw [← List.getD_eq_getElem _ false hi, ← List.getD_eq_getElem _ false hi', toBits_getD, be64_getMsbD _ h64]

/-- Settles O34: the bytes of the field are those of the list, and its bits are the encoded bits. -/
theorem blockFieldsAreBigEndian : Obligations.BlockFieldsAreBigEndian := by
  refine fun bytes h => ⟨fun j hj => ?_, fun i hi => ?_, toBits_be64 h, bytes8_be64 h⟩
  · rw [← byteAt_eq_extractLsb', byteAt_be64 _ hj]
  · rw [← be64_getMsbD _ hi]
    simp [BitVec.getMsbD, hi]

/-! ## `decodeBits` (R53) -/

theorem encodeBits_bytes8 (v : Block) : encodeBits (bytes8 v) = toBits v := by
  rw [← toBits_be64 (bytes8_length v), be64_bytes8]

theorem encodeBits_decodeBits (groups : List Block) : encodeBits (decodeBits groups) = groups.flatMap toBits := by
  rw [encodeBits, decodeBits, List.flatMap_assoc]
  exact congrArg (groups.flatMap ·) (funext encodeBits_bytes8)

/-- Without its first 8 bytes a message has its later blocks. -/
theorem messageBlock_succ (m : List Byte) (k : Nat) : messageBlock m (k + 1) = messageBlock (m.drop 8) k := by
  rw [messageBlock, messageBlock, List.drop_drop, Nat.mul_succ, Nat.add_comm]

theorem decodeBits_messageBlocks {n : Nat} {bytes : List Byte} (h : bytes.length = 8 * n) :
    decodeBits ((List.range n).map (messageBlock bytes)) = bytes := by
  induction n generalizing bytes with
  | zero => simp [decodeBits, List.eq_nil_of_length_eq_zero h]
  | succ n ih =>
    have hfirst : bytes8 (messageBlock bytes 0) = bytes.take 8 := bytes8_be64 (by simp [h, Nat.mul_succ])
    have hrest : decodeBits ((List.range n).map (messageBlock (bytes.drop 8))) = bytes.drop 8 :=
      ih (by simp [h, Nat.mul_succ])
    have hshift : messageBlock bytes ∘ Nat.succ = messageBlock (bytes.drop 8) := funext (messageBlock_succ bytes)
    calc decodeBits ((List.range (n + 1)).map (messageBlock bytes))
        = bytes8 (messageBlock bytes 0) ++ decodeBits ((List.range n).map (messageBlock (bytes.drop 8))) := by
          rw [List.range_succ_eq_map, List.map_cons, List.map_map, hshift, decodeBits, decodeBits, List.flatMap_cons]
      _ = bytes.take 8 ++ bytes.drop 8 := by rw [hfirst, hrest]
      _ = bytes := List.take_append_drop 8 bytes

/-- Settles O35: each block gives its own bits, and block by block the message's bytes come back. -/
theorem decodeBitsInvertsEncodeBits : Obligations.DecodeBitsInvertsEncodeBits :=
  ⟨encodeBits_decodeBits, fun _ h => decodeBits_messageBlocks (Nat.mul_div_cancel' (Nat.dvd_of_mod_eq_zero h)).symm⟩

end Sys2Proof.Proofs
end

section
/-! The encoding (30_encoding.md rules R70 to R75): a word decodes to a command exactly when the command is well formed and encodes to it, which words match a row of the opcode table, and what every other word is answered. -/

namespace Sys2Proof.Proofs

open Sys2Proof Sys2Proof.Machine Sys2Proof.Claims
open Sys2Proof.Laws.MatchesItsRow (mkCmd_and_opcode_mask mkCmd_and_payload_mask mkCmd_and_start_mask)

variable {op arg : BitVec 8} {payload : BitVec 64} {w : Cmd} {i : Instr}

/-! ## The round trip -/

/-- Assembled words are equal when their fields are. -/
theorem mkCmd_inj {op' arg' : BitVec 8} {payload' : BitVec 64} :
    mkCmd op arg payload = mkCmd op' arg' payload' ↔ op = op' ∧ arg = arg' ∧ payload = payload' := by
  constructor
  · intro h
    exact ⟨by simpa using congrArg cmdOp h, by simpa using congrArg cmdArg h, by simpa using congrArg cmdPayload h⟩
  · rintro ⟨rfl, rfl, rfl⟩
    rfl

theorem wellFormed_start {mode : BitVec 8} {len : BitVec 64} : (Instr.start mode len).wellFormed = true ↔ mode ≤ 1#8 := by
  simp [Instr.wellFormed]

theorem decode_encode (h : i.wellFormed = true) : decode (encode i) = .command i := by
  cases i with
  | start mode len =>
    simp [encode, decodeFields, decodeStart_eq_command, wellFormed_start.mp h]
  | ldkey n key => simp [encode, decodeFields]
  | ldiv iv => simp [encode, decodeFields, decodePayloadOnly_eq_command]
  | blk data => simp [encode, decodeFields, decodePayloadOnly_eq_command]
  | nop => decide
  | abort => decide
  | rdout => decide
  | rdstat => decide
  | rdrem => decide
  | clrerr => decide

/-- A command without operands is decoded from the word whose other fields are 0. -/
theorem encode_of_decodeBare {j : Instr} (hwf : j.wellFormed = true) (hj : encode j = mkCmd op 0 0)
    (h : decodeBare j arg payload = .command i) : i.wellFormed = true ∧ encode i = mkCmd op arg payload := by
  obtain ⟨rfl, rfl, rfl⟩ := decodeBare_eq_command.mp h
  exact ⟨hwf, hj⟩

/-- A command with a payload is decoded from the word whose `ARG` is 0. -/
theorem encode_of_decodePayloadOnly {j : Instr} (hwf : j.wellFormed = true) (hj : encode j = mkCmd op 0 payload)
    (h : decodePayloadOnly j arg = .command i) : i.wellFormed = true ∧ encode i = mkCmd op arg payload := by
  obtain ⟨rfl, rfl⟩ := decodePayloadOnly_eq_command.mp h
  exact ⟨hwf, hj⟩

/-- Row by row, the fields that decode to a command are the ones it is encoded with. -/
theorem encode_of_decodeFields (h : decodeFields op arg payload = .command i) :
    i.wellFormed = true ∧ encode i = mkCmd op arg payload := by
  unfold decodeFields at h
  split_ifs at h with hnop hldkey hldiv hstart hblk habort hrdout hrdstat hrdrem hclrerr <;> subst op
  · exact encode_of_decodeBare rfl rfl h
  · cases h
    exact ⟨rfl, rfl⟩
  · exact encode_of_decodePayloadOnly rfl rfl h
  · obtain ⟨hmode, rfl⟩ := decodeStart_eq_command.mp h
    exact ⟨wellFormed_start.mpr hmode, rfl⟩
  · exact encode_of_decodePayloadOnly rfl rfl h
  all_goals exact encode_of_decodeBare rfl rfl h

/-- Decoding is the inverse of encoding on the well-formed commands, and fails everywhere else. -/
theorem decode_eq_command_iff : decode w = .command i ↔ i.wellFormed = true ∧ encode i = w := by
  constructor
  · intro h
    rw [← mkCmd_fields w]
    exact encode_of_decodeFields h
  · rintro ⟨hwf, rfl⟩
    exact decode_encode hwf

/-- Settles O2: each command's row is read back by the decoder. -/
theorem decodeOfEncodeGivesTheCommand : Obligations.DecodeOfEncodeGivesTheCommand :=
  fun _ hwf => decode_eq_command_iff.mpr ⟨hwf, rfl⟩

/-- Settles O3: the fields that decode to a command are the ones it is encoded with, and a word is its fields. -/
theorem decodedWordIsTheEncodingOfItsCommand : Obligations.DecodedWordIsTheEncodingOfItsCommand :=
  fun _ _ => decode_eq_command_iff.mp

/-! ## The opcode table (R75) -/

theorem matchesItsRow (i : Instr) : Laws.MatchesItsRow.Statement i := by
  cases i with
  | nop => exact Laws.MatchesItsRow.nop
  | ldkey n key => exact Laws.MatchesItsRow.ldkey n key
  | ldiv iv => exact Laws.MatchesItsRow.ldiv iv
  | start mode len => exact Laws.MatchesItsRow.start mode len
  | blk data => exact Laws.MatchesItsRow.blk data
  | abort => exact Laws.MatchesItsRow.abort
  | rdout => exact Laws.MatchesItsRow.rdout
  | rdstat => exact Laws.MatchesItsRow.rdstat
  | rdrem => exact Laws.MatchesItsRow.rdrem
  | clrerr => exact Laws.MatchesItsRow.clrerr

/-- A row whose mask covers every bit is matched by the word of its one command alone. -/
theorem decodes_of_full_mask (hwf : i.wellFormed = true) (h : w &&& BitVec.allOnes 80 = encode i) :
    ∃ i, decode w = .command i :=
  ⟨i, decode_eq_command_iff.mpr ⟨hwf, by rw [← h, BitVec.and_allOnes]⟩⟩

/-- The bits `START`'s mask covers in `ARG` are 0 in the two modes alone. -/
theorem mode_le_of_and_mask (h : arg &&& 0xFE#8 = 0#8) : arg ≤ 1#8 := by
  have hall : ∀ a : BitVec 8, a &&& 0xFE#8 = 0#8 → a ≤ 1#8 := by decide +kernel
  exact hall arg h

theorem decodes_of_mem_opcodeTable (w : Cmd) :
    ∀ r ∈ opcodeTable, w &&& r.mask = r.pattern → ∃ i, decode w = .command i := by
  rw [← mkCmd_fields w]
  generalize cmdOp w = op, cmdArg w = arg, cmdPayload w = payload
  simp only [opcodeTable, List.forall_mem_cons]
  refine ⟨decodes_of_full_mask (i := .nop) rfl, fun h => ?_, fun h => ?_, fun h => ?_, fun h => ?_,
    decodes_of_full_mask (i := .abort) rfl, decodes_of_full_mask (i := .rdout) rfl, decodes_of_full_mask (i := .rdstat) rfl,
    decodes_of_full_mask (i := .rdrem) rfl, decodes_of_full_mask (i := .clrerr) rfl, by simp⟩
  · have hrow : mkCmd op 0 0 = mkCmd 0x01 0 0 := (mkCmd_and_opcode_mask op arg payload).symm.trans h
    obtain ⟨rfl, -, -⟩ := mkCmd_inj.mp hrow
    exact ⟨_, decode_encode (i := .ldkey arg payload) rfl⟩
  · have hrow : mkCmd op arg 0 = mkCmd 0x02 0 0 := (mkCmd_and_payload_mask op arg payload).symm.trans h
    obtain ⟨rfl, rfl, -⟩ := mkCmd_inj.mp hrow
    exact ⟨_, decode_encode (i := .ldiv payload) rfl⟩
  · have hrow : mkCmd op (arg &&& 0xFE) 0 = mkCmd 0x10 0 0 := (mkCmd_and_start_mask op arg payload).symm.trans h
    obtain ⟨rfl, hmode, -⟩ := mkCmd_inj.mp hrow
    exact ⟨_, decode_encode (i := .start arg payload) (wellFormed_start.mpr (mode_le_of_and_mask hmode))⟩
  · have hrow : mkCmd op arg 0 = mkCmd 0x11 0 0 := (mkCmd_and_payload_mask op arg payload).symm.trans h
    obtain ⟨rfl, rfl, -⟩ := mkCmd_inj.mp hrow
    exact ⟨_, decode_encode (i := .blk payload) rfl⟩

/-- "A word is reserved exactly when it matches no row" (R75). -/
theorem decodes_iff_matches_row (w : Cmd) :
    (∃ i, decode w = .command i) ↔ ∃ r ∈ opcodeTable, w &&& r.mask = r.pattern := by
  constructor
  · rintro ⟨i, hdecode⟩
    obtain ⟨hwf, rfl⟩ := decode_eq_command_iff.mp hdecode
    obtain ⟨r, hr, -, haccepts⟩ := matchesItsRow i hwf
    exact ⟨r, hr, by simpa [OpcodeRow.accepts] using haccepts⟩
  · rintro ⟨r, hr, h⟩
    exact decodes_of_mem_opcodeTable w r hr h

theorem illegal_of_not_decodes (h : ¬ ∃ i, decode w = .command i) : ∃ d, decode w = .illegal d := by
  cases hd : decode w with
  | command i => exact absurd ⟨i, hd⟩ h
  | illegal d => exact ⟨d, rfl⟩

/-- Settles O4: matching a row is decoding, and a word that does not decode is refused by the decoder. -/
theorem reservedWordsMatchNoRowAndAreRefused : Obligations.ReservedWordsMatchNoRowAndAreRefused := by
  refine ⟨decodes_iff_matches_row, fun w s hrow => ?_, fun w => ?_⟩
  · have hno : ¬ ∃ i, decode w = .command i := by
      rw [decodes_iff_matches_row]
      rintro ⟨r, hr, h⟩
      exact hrow r hr h
    obtain ⟨d, hd⟩ := illegal_of_not_decodes hno
    rw [step_present_command, executeWord_of_illegal hd, raise_eq_refusedState]
  · have hnop : encode .nop = 0 := by decide
    rw [decode_eq_command_iff, hnop]
    exact ⟨fun ⟨_, h⟩ => h.symm, fun h => ⟨rfl, h.symm⟩⟩

end Sys2Proof.Proofs
end

section
/-! The answer to a word (30_encoding.md rules R71, R74, R79): the result codes that occur, which commands return data, and that the failing check the engine reports is the first one of R74. -/

namespace Sys2Proof.Proofs

open Sys2Proof Sys2Proof.Machine Sys2Proof.Claims

variable {op arg : BitVec 8} {payload : BitVec 64} {s t : State} {w : Cmd} {i : Instr} {e : Exc} {f : Option Exc}

/-! ## The result codes (R79) -/

theorem rcodeError_eq_errorRcode (e : Exc) : rcodeError e = errorRcode e := by
  cases e <;> decide

/-- Without the codes 6 and 7, which are never raised (R231, R232), six errors are left. -/
theorem mem_occurring_of_ne (h6 : e ≠ .malformedBitLength) (h7 : e ≠ .indexOutOfRange) :
    e ∈ [Exc.illegalCommand, .protocolError, .invalidKeyMaterial, .missingIv, .malformedCiphertextLength,
      .outputNotValid] := by
  cases e <;> simp at h6 h7 ⊢

/-- A command answers `OK`, or `OKDATA` when it is one of the four that return data, or is refused with an error that occurs. -/
theorem runs_answer (hr : Runs i s t) :
    (t.resp = some (mkResp rcodeOk 0) ∧ ∀ d, i ≠ .blk d ∧ i ≠ .rdout ∧ i ≠ .rdstat ∧ i ≠ .rdrem) ∨
    (∃ rdata, t.resp = some (mkResp rcodeOkData rdata) ∧ ((∃ d, i = .blk d) ∨ i = .rdout ∨ i = .rdstat ∨ i = .rdrem)) ∨
    ∃ e, e ≠ .malformedBitLength ∧ e ≠ .indexOutOfRange ∧ t = s.raise e := by
  cases hr with
  | refused h6 h7 => exact .inr (.inr ⟨_, h6, h7, rfl⟩)
  | nop | ldkey | ldiv | start | abort | clrerr => exact .inl ⟨rfl, by simp⟩
  | enc | dec | rdout | rdstat | rdrem => exact .inr (.inl ⟨_, rfl, by simp⟩)

/-- A refusal with an error that occurs answers its code with no data, and `ERR` holds the error (R225). -/
theorem raise_answer (s : State) (h6 : e ≠ .malformedBitLength) (h7 : e ≠ .indexOutOfRange) :
    ∃ r, (s.raise e).resp = some r ∧ ∃ e' ∈ [Exc.illegalCommand, .protocolError, .invalidKeyMaterial, .missingIv,
      .malformedCiphertextLength, .outputNotValid], respRcode r = errorRcode e' ∧ respRdata r = 0 ∧
        (s.raise e).err = some e' :=
  ⟨_, rfl, e, mem_occurring_of_ne h6 h7, (respRcode_mkResp _ _).trans (rcodeError_eq_errorRcode e),
    respRdata_mkResp _ _, rfl⟩

/-- Settles O7: a word that does not decode is refused, and a command's answer is the one of its run. -/
theorem everyCommandAnswersOneOfTheResultCodes : Obligations.EveryCommandAnswersOneOfTheResultCodes := by
  intro w s
  obtain ⟨t, ht⟩ := executeWord_next w s
  obtain ⟨i, hdecode, hexec⟩ | ⟨_, -, rfl⟩ := executeWord_cases ht
  · obtain ⟨hresp, hi⟩ | ⟨rdata, hresp, hi⟩ | ⟨e, h6, h7, rfl⟩ := runs_answer (exec_runs hexec)
    · exact ⟨t, _, ht, hresp, .inl ⟨respRcode_mkResp _ _, respRdata_mkResp _ _, i, hdecode, hi⟩⟩
    · exact ⟨t, _, ht, hresp, .inr (.inl ⟨respRcode_mkResp _ _, by simpa [hdecode] using hi⟩)⟩
    · obtain ⟨r, hresp, hr⟩ := raise_answer s h6 h7
      exact ⟨_, r, ht, hresp, .inr (.inr hr)⟩
  · obtain ⟨r, hresp, hr⟩ := raise_answer s (e := .illegalCommand) (by decide) (by decide)
    exact ⟨_, r, ht, hresp, .inr (.inr hr)⟩

/-! ## The first failing check (R74) -/

/-- Steps 1 and 2 of R74 are the decoder's: the opcode and the reserved fields. -/
theorem decodes_iff_fields_valid :
    (∃ i, decode (mkCmd op arg payload) = .command i) ↔ op ∈ opcodes ∧ ¬ reservedFieldSet op arg payload := by
  rw [decode_mkCmd]
  unfold decodeFields
  split_ifs
  case neg => simp_all [opcodes]
  all_goals
    subst op
    simp [opcodes, reservedFieldSet, decodeBare_eq_command, decodePayloadOnly_eq_command, decodeStart_eq_command,
      BitVec.le_def]

theorem wordRefusal_of_fields_invalid (h : ¬ (op ∈ opcodes ∧ ¬ reservedFieldSet op arg payload)) (s : State) :
    wordRefusal (mkCmd op arg payload) s = some .illegalCommand := by
  rw [← decodes_iff_fields_valid] at h
  obtain ⟨d, hd⟩ := illegal_of_not_decodes h
  exact wordRefusal_of_illegal hd

/-- A word whose fields are valid is checked further as the command it encodes. -/
theorem exists_encode_of_fields_valid (hop : op ∈ opcodes) (hfields : ¬ reservedFieldSet op arg payload) :
    ∃ i, i.wellFormed = true ∧ encode i = mkCmd op arg payload := by
  obtain ⟨i, hdecode⟩ := decodes_iff_fields_valid.mpr ⟨hop, hfields⟩
  exact ⟨i, decode_eq_command_iff.mp hdecode⟩

theorem wordRefusal_encode (h : i.wellFormed = true) (s : State) : wordRefusal (encode i) s = refusal i s :=
  wordRefusal_of_command (decode_encode h)

/-- `START` in a mode that is not reserved is checked in the order sequencer, key, IV, length (R163). -/
theorem refusal_start {mode : BitVec 8} (hmode : mode ≤ 1#8) (len : BitVec 64) (s : State) :
    refusal (.start mode len) s =
      if s.seq ≠ .idle then some .protocolError
      else if s.kvalid = false then some .invalidKeyMaterial
      else if s.ivvalid = false then some .missingIv
      else if mode = 1#8 ∧ len.toNat % 8 ≠ 0 then some .malformedCiphertextLength
      else none := by
  simp [refusal, BitVec.not_lt.mpr hmode, lengthMalformed, Config.blockBytes]

theorem mode_le_of_not_reserved (h : ¬ reservedFieldSet 0x10 arg payload) : arg ≤ 1#8 := by
  simpa [reservedFieldSet, BitVec.le_def] using h

/-- `LDKEY`, `LDIV` and `START` pass the check of `STATE` in `IDLE` alone (R74 step 3). -/
theorem seq_eq_idle_of_not_wrongState (h : ¬ wrongState op s) (hop : op ∈ [0x01#8, 0x02#8, 0x10#8]) : s.seq = .idle :=
  not_not.mp fun hseq => h (.inl ⟨hop, hseq⟩)

/-- The checks of `START` that are left when steps 1 to 3 of R74 pass. -/
theorem wordRefusal_start (hmode : arg ≤ 1#8) (hstate : ¬ wrongState 0x10 s) :
    wordRefusal (mkCmd 0x10 arg payload) s =
      if s.kvalid = false then some .invalidKeyMaterial
      else if s.ivvalid = false then some .missingIv
      else if arg = 1#8 ∧ payload.toNat % 8 ≠ 0 then some .malformedCiphertextLength
      else none := by
  have hidle : s.seq = .idle := seq_eq_idle_of_not_wrongState hstate (by simp)
  have hword : wordRefusal (mkCmd 0x10 arg payload) s = refusal (.start arg payload) s :=
    wordRefusal_encode (wellFormed_start.mpr hmode) s
  rw [hword, refusal_start hmode, if_neg (not_not.mpr hidle)]

theorem refusal_of_wrongState (hwf : i.wellFormed = true) (hi : encode i = mkCmd op arg payload) (h : wrongState op s) :
    refusal i s = some .protocolError := by
  cases i with
  | start mode len =>
    obtain ⟨rfl, rfl, rfl⟩ := mkCmd_inj.mp hi
    have hseq : s.seq ≠ .idle := by simpa [wrongState] using h
    rw [refusal_start (wellFormed_start.mp hwf), if_pos hseq]
  | _ =>
    obtain ⟨rfl, rfl, rfl⟩ := mkCmd_inj.mp hi
    simp_all [wrongState, refusal]

theorem refusal_of_passes (hwf : i.wellFormed = true) (hi : encode i = mkCmd op arg payload) (hstate : ¬ wrongState op s)
    (hkey : op = 0x01 → arg ≠ 0)
    (hstart : op = 0x10 → s.kvalid = true ∧ s.ivvalid = true ∧ (arg = 1 → payload.toNat % 8 = 0))
    (hout : op = 0x20 → s.ovalid = true) : refusal i s = none := by
  cases i with
  | start mode len =>
    obtain ⟨rfl, rfl, rfl⟩ := mkCmd_inj.mp hi
    obtain ⟨hk, hiv, hlen⟩ := hstart rfl
    have hidle : s.seq = .idle := seq_eq_idle_of_not_wrongState hstate (by simp)
    rw [refusal_start (wellFormed_start.mp hwf)]
    simpa [hidle, hk, hiv] using hlen
  | _ =>
    obtain ⟨rfl, rfl, rfl⟩ := mkCmd_inj.mp hi
    simp_all [wrongState, refusal]

/-- The engine's checks report the first failure of R74. -/
theorem wordRefusal_of_firstFailure (h : FirstFailure op arg payload s f) : wordRefusal (mkCmd op arg payload) s = f := by
  cases h with
  | opcode hop => exact wordRefusal_of_fields_invalid (fun ⟨h, _⟩ => hop h) s
  | reserved _ hreserved => exact wordRefusal_of_fields_invalid (fun ⟨_, h⟩ => h hreserved) s
  | state hop hfields hstate =>
    obtain ⟨i, hwf, hi⟩ := exists_encode_of_fields_valid hop hfields
    rw [← hi, wordRefusal_encode hwf, refusal_of_wrongState hwf hi hstate]
  | emptyKey hop hstate harg =>
    subst hop harg
    have hidle : s.seq = .idle := seq_eq_idle_of_not_wrongState hstate (by simp)
    exact (wordRefusal_encode (i := .ldkey 0 payload) rfl s).trans (by simp [refusal, hidle])
  | noKey hop hfields hstate hk =>
    subst hop
    rw [wordRefusal_start (mode_le_of_not_reserved hfields) hstate, if_pos hk]
  | noIv hop hfields hstate hk hiv =>
    subst hop
    rw [wordRefusal_start (mode_le_of_not_reserved hfields) hstate]
    simp [hk, hiv]
  | length hop hstate hk hiv harg hlen =>
    subst hop harg
    rw [wordRefusal_start (by decide) hstate]
    simp [hk, hiv, hlen]
  | noOutput hop hfields ho =>
    subst hop
    obtain ⟨rfl, rfl⟩ : arg = 0 ∧ payload = 0 := by simpa [reservedFieldSet] using hfields
    exact (wordRefusal_encode (i := .rdout) rfl s).trans (by simp [refusal, ho])
  | passes hop hfields hstate hkey hstart hout =>
    obtain ⟨i, hwf, hi⟩ := exists_encode_of_fields_valid hop hfields
    rw [← hi, wordRefusal_encode hwf, refusal_of_passes hwf hi hstate hkey hstart hout]

/-- Some check is the first to fail, or none does. -/
theorem exists_firstFailure (op arg : BitVec 8) (payload : BitVec 64) (s : State) : ∃ f, FirstFailure op arg payload s f := by
  by_cases hop : op ∈ opcodes
  case neg => exact ⟨_, .opcode hop⟩
  by_cases hfields : reservedFieldSet op arg payload
  case pos => exact ⟨_, .reserved hop hfields⟩
  by_cases hstate : wrongState op s
  case pos => exact ⟨_, .state hop hfields hstate⟩
  by_cases hkey : op = 0x01 ∧ arg = 0
  case pos => exact ⟨_, .emptyKey hkey.1 hstate hkey.2⟩
  by_cases hout : op = 0x20 ∧ s.ovalid = false
  case pos => exact ⟨_, .noOutput hout.1 hfields hout.2⟩
  have passes := FirstFailure.passes hop hfields hstate (not_and.mp hkey) (h6 := by simpa using hout)
  by_cases hstart : op = 0x10
  case neg => exact ⟨none, passes fun h => absurd h hstart⟩
  cases hk : s.kvalid with
  | false => exact ⟨_, .noKey hstart hfields hstate hk⟩
  | true =>
    cases hiv : s.ivvalid with
    | false => exact ⟨_, .noIv hstart hfields hstate hk hiv⟩
    | true =>
      by_cases hlen : arg = 1 ∧ payload.toNat % 8 ≠ 0
      case pos => exact ⟨_, .length hstart hstate hk hiv hlen.1 hlen.2⟩
      exact ⟨none, passes fun _ => ⟨hk, hiv, by simpa using hlen⟩⟩

/-- Settles O8: the engine refuses a word with the first failing check of R74, and executes it when there is none. -/
theorem commandsReportTheFirstFailingCheck : Obligations.CommandsReportTheFirstFailingCheck := by
  intro op arg payload s
  refine ⟨exists_firstFailure op arg payload s, fun e hfirst => ?_, fun hfirst => ?_⟩
  · rw [afterWord, step_present_command, executeWord_of_wordRefusal_some (wordRefusal_of_firstFailure hfirst),
      raise_eq_refusedState]
  · obtain ⟨t, ht⟩ := executeWord_next (mkCmd op arg payload) s
    exact ⟨t, ht, succeeded_of_wordRefusal_none (wordRefusal_of_firstFailure hfirst) ht⟩

end Sys2Proof.Proofs
end

section
/-! The permutation network (40_permutation_network.md rules R90 and R100): which input bit each output bit is, and when two tables undo each other. -/

namespace Sys2Proof.Proofs

open Sys2Proof Sys2Proof.Machine

variable {inW outW : Nat}

/-- R90. Past the table's end the output has no bit, while the entry read there would be 0, so `i` is bounded. -/
theorem permute_getMsbD (v : BitVec inW) (t : PermTable inW outW) {i : Nat} (hi : i < outW) :
    (permute v t).getMsbD i = v.getMsbD (t.entries.getD i 0 - 1) := by
  have hentry : i < t.entries.length := hi.trans_eq t.length_eq.symm
  rw [permute, ofBits_getMsbD (by simp [t.length_eq])]
  simp [hentry]

/-- An entry, read as an index, is a bit of the input (R91). -/
theorem entry_pred_lt (t : PermTable inW outW) {i : Nat} (hi : i < outW) : t.entries.getD i 0 - 1 < inW := by
  have hentry : i < t.entries.length := hi.trans_eq t.length_eq.symm
  have hrange := t.in_range _ (List.getElem_mem hentry)
  rw [List.getD_eq_getElem _ 0 hentry]
  omega

/-- Two permutations compose to one lookup through both tables, so a table `u` undoes `t` when that lookup leads every
position back to itself. -/
theorem permute_permute_of_inverse {t : PermTable inW outW} {u : PermTable outW inW}
    (h : ∀ i < inW, t.entries.getD (u.entries.getD i 0 - 1) 0 = i + 1) (v : BitVec inW) :
    permute (permute v t) u = v := by
  apply BitVec.eq_of_getMsbD_eq
  intro i hi
  rw [permute_getMsbD _ u hi, permute_getMsbD v t (entry_pred_lt u hi), h i hi, Nat.add_sub_cancel]

/-- `FP` after `IP` (R100). -/
theorem permute_tableFP_permute_tableIP (v : Block) : permute (permute v tableIP) tableFP = v :=
  permute_permute_of_inverse (fun i hi => (tables_inverse ⟨i, hi⟩).2) v

/-- `IP` after `FP` (R100). -/
theorem permute_tableIP_permute_tableFP (v : Block) : permute (permute v tableFP) tableIP = v :=
  permute_permute_of_inverse (fun i hi => (tables_inverse ⟨i, hi⟩).1) v

/-- Settles O36: the table's length proof, and the bit of the output at each of its positions. -/
theorem permuteSelectsTheTablePositions : Obligations.PermuteSelectsTheTablePositions :=
  fun _ _ t v _ => ⟨t.length_eq, permute_getMsbD v t⟩

/-- Settles O37: the checked tables (R99 (f)) lead every position back to itself, in both orders. -/
theorem finalPermutationInvertsTheInitial : Obligations.FinalPermutationInvertsTheInitial :=
  fun v => ⟨permute_tableFP_permute_tableIP v, permute_tableIP_permute_tableFP v⟩

end Sys2Proof.Proofs
end

section
/-! The key register (41_key_schedule.md rules R110 and R112): blocks byte by byte, the normalised key as the first bytes of any payload that holds them, and `LDKEY`. -/

namespace Sys2Proof.Proofs

open Sys2Proof Sys2Proof.Machine Sys2Proof.Claims

/-! ## Blocks byte by byte -/

/-- A block is its eight bytes. -/
theorem block_eq_of_byteAt_eq {v w : Block} (h : ∀ j < 8, byteAt v j = byteAt w j) : v = w := by
  have hbytes : bytes8 v = bytes8 w := List.map_congr_left fun j hj => h j (List.mem_range.mp hj)
  rw [← be64_bytes8 v, hbytes, be64_bytes8]

theorem byteAt_keep (v : Block) {n j : Nat} (hn : n ≤ 8) (hj : j < 8) :
    byteAt (keep v n) j = if j < n then byteAt v j else 0 := by
  apply BitVec.eq_of_getMsbD_eq
  intro t ht
  rw [byteAt_getMsbD _ hj, keep_getMsbD v hn]
  split
  · have hbit : 8 * j + t < 8 * n := by omega
    simp [byteAt_getMsbD v hj, hbit]
  · have hbit : ¬ 8 * j + t < 8 * n := by omega
    simp [hbit]

/-! ## `normKey` (R110) -/

/-- The key register holds a key as a field holds its bytes: both pad with zero bits and cut at 64. -/
theorem normKey_eq_be64 (key : List Byte) : normKey key = be64 key := rfl

theorem normKey_getMsbD (key : List Byte) {i : Nat} (hi : i < 64) :
    (normKey key).getMsbD i = if i < 8 * key.length then (encodeBits key).getD i false else false := by
  rw [normKey_eq_be64, be64_getMsbD key hi]
  split
  · rfl
  · exact List.getD_eq_default _ _ (by rw [encodeBits_length]; omega)

/-- Only the payload's first `min(m, 8)` bytes matter, and they are the key's. -/
theorem keep_eq_normKey {key : List Byte} {payload : Block}
    (h : ∀ j < min key.length 8, byteAt payload j = key.getD j 0) : keep payload (min key.length 8) = normKey key := by
  refine block_eq_of_byteAt_eq fun j hj => ?_
  rw [byteAt_keep _ (Nat.min_le_right _ _) hj, normKey_eq_be64, byteAt_be64 _ hj]
  split_ifs with hjm
  · exact h j hjm
  · exact (List.getD_eq_default _ _ (by omega)).symm

/-- Settles O38: bit by bit as a zero-padded field, and as the first bytes of the field of the key's first 8. -/
theorem normKeyPadsAndTruncates : Obligations.NormKeyPadsAndTruncates := by
  refine fun key => ⟨fun i hi => normKey_getMsbD key hi, (keep_eq_normKey fun j hj => ?_).symm⟩
  have hj8 : j < 8 := by omega
  rw [byteAt_be64 _ hj8, List.getD_eq_getElem?_getD, List.getElem?_take_of_lt hj8, ← List.getD_eq_getElem?_getD]

/-! ## `LDKEY` (R112) -/

/-- The word of `LDKEY` runs `LDKEY`, whatever its `ARG`. -/
theorem afterWord_ldkey (n : BitVec 8) (key : Block) (s : State) : afterWord 0x01 n key s = exec (.ldkey n key) s := by
  rw [afterWord, step_present_command, executeWord_of_decode (i := .ldkey n key) (by simp [decodeFields])]

/-- In `IDLE` a key of a length that is not 0 is loaded. -/
theorem exec_ldkey_idle {n : BitVec 8} {s : State} (hidle : s.seq = .idle) (hn : n ≠ 0) (key : Block) :
    exec (.ldkey n key) s = .next { s with key := keep key (min n.toNat 8), kvalid := true, resp := okResp } := by
  rw [exec_of_refusal_none (by simpa [refusal, hidle] using hn)]
  rfl

/-- The length argument 255 stands for every greater length (R112), and the key register sees no length past 8. -/
theorem exec_ldkey_eq_normKey {bytes : List Byte} {n : BitVec 8} {payload : Block} {s : State} (hidle : s.seq = .idle)
    (hbytes : bytes ≠ []) (hn : n.toNat = min bytes.length 255)
    (hpayload : ∀ j < min bytes.length 8, byteAt payload j = bytes.getD j 0) :
    exec (.ldkey n payload) s = .next { s with key := normKey bytes, kvalid := true, resp := okResp } := by
  have hpos : 0 < bytes.length := List.length_pos_iff.mpr hbytes
  have hn0 : n ≠ 0 := by
    rintro rfl
    simp at hn
    omega
  have hmin : min n.toNat 8 = min bytes.length 8 := by omega
  rw [exec_ldkey_idle hidle hn0, hmin, keep_eq_normKey hpayload]

/-- Settles O12: the two refusals by their checks, the load by its effect, and its key as the normalised one. -/
theorem ldkeyLoadsTheKeyInIdle : Obligations.LdkeyLoadsTheKeyInIdle := by
  refine ⟨afterWord_ldkey, fun n key s hseq => ?_, fun key s hidle => ?_, fun n key s hidle hn => exec_ldkey_idle hidle hn key,
    fun bytes n payload s => exec_ldkey_eq_normKey⟩
  · rw [exec_of_refusal_some (e := .protocolError) (by simp [refusal, hseq]), raise_eq_refusedState]
  · rw [exec_of_refusal_some (e := .invalidKeyMaterial) (by simp [refusal, hidle]), raise_eq_refusedState]

end Sys2Proof.Proofs
end

section
/-! The key schedule (41_key_schedule.md sections 3 and 4): where each subkey bit comes from, the running halves, and the keys whose schedule is degenerate. -/

namespace Sys2Proof.Proofs

open Sys2Proof Sys2Proof.Machine Sys2Proof.Claims

variable {K K' : Block} {C : BitVec 28}

/-- The closed form (R115), its halves rotated as R119 rotates the running ones. -/
theorem subkey_eq_compressHalves (K : Block) (i : Fin 16) :
    subkey K i = compressHalves (rotl (halfC0 K) (cumAt i)) (rotl (halfD0 K) (cumAt i)) := by
  rw [subkey]

/-! ## Subkey bits (R113 to R115) -/

theorem keyHalves_getMsbD (K : Block) {q : Nat} (hq : q < 56) :
    (keyHalves K).getMsbD q = K.getMsbD (tablePC1.entries.getD q 0 - 1) :=
  permute_getMsbD K tablePC1 hq

theorem rotl_halfC0_getMsbD (K : Block) (s : Nat) {i : Nat} (hi : i < 28) :
    (rotl (halfC0 K) s).getMsbD i = (keyHalves K).getMsbD ((i + s) % 28) := by
  have hmod : (i + s) % 28 < 28 := Nat.mod_lt _ (by decide)
  rw [rotl_getMsbD _ hi, halfC0, slice_getMsbD _ (by decide)]
  simp [hmod]

theorem rotl_halfD0_getMsbD (K : Block) (s : Nat) {i : Nat} (hi : i < 28) :
    (rotl (halfD0 K) s).getMsbD i = (keyHalves K).getMsbD (28 + (i + s) % 28) := by
  have hmod : (i + s) % 28 < 28 := Nat.mod_lt _ (by decide)
  rw [rotl_getMsbD _ hi, halfD0, slice_getMsbD _ (by decide)]
  simp [hmod]

/-- A subkey bit stands in the half that its `PC2` entry points into. -/
theorem compressHalves_getMsbD (C D : BitVec 28) {j : Nat} (hj : j < 48) :
    (compressHalves C D).getMsbD j =
      if tablePC2.entries.getD j 0 ≤ 28 then C.getMsbD (tablePC2.entries.getD j 0 - 1)
      else D.getMsbD (tablePC2.entries.getD j 0 - 29) := by
  rw [compressHalves, permute_getMsbD _ tablePC2 hj, keyHalves_append_getMsbD]
  exact if_congr (by omega) rfl (by rw [Nat.sub_sub])

/-- Settles O39: each step of the closed form, bit by bit, in either half. -/
theorem subkeyBitsAreRotatedKeyBits : Obligations.SubkeyBitsAreRotatedKeyBits := by
  intro K i j hj
  have hentry := entry_pred_lt tablePC2 hj
  rw [subkey_eq_compressHalves, compressHalves_getMsbD _ _ hj]
  simp only [keyBitIndex]
  split
  · rw [rotl_halfC0_getMsbD K _ (by omega), keyHalves_getMsbD K (by omega)]
  · rw [rotl_halfD0_getMsbD K _ (by omega), keyHalves_getMsbD K (by omega)]

/-! ## The running halves (R119) -/

theorem rotl_zero {n : Nat} (v : BitVec n) : rotl v 0 = v := by
  apply BitVec.eq_of_getMsbD_eq
  intro i hi
  rw [rotl_getMsbD v hi, Nat.add_zero, Nat.mod_eq_of_lt hi]

theorem rotl_rotl {n : Nat} (v : BitVec n) (a b : Nat) : rotl (rotl v a) b = rotl v (a + b) := by
  apply BitVec.eq_of_getMsbD_eq
  intro i hi
  have hmod : (i + b) % n < n := Nat.mod_lt _ (Nat.zero_lt_of_lt hi)
  rw [rotl_getMsbD _ hi, rotl_getMsbD _ hmod, rotl_getMsbD _ hi, Nat.mod_add_mod, Nat.add_assoc, Nat.add_comm b a]

/-- Rotations one after the other are one rotation by their sum. -/
theorem foldl_rotateHalves (shifts : List Nat) (CD : BitVec 28 × BitVec 28) :
    shifts.foldl rotateHalves CD = rotateHalves CD shifts.sum := by
  induction shifts generalizing CD with
  | nil => simp [rotateHalves, rotl_zero]
  | cons a shifts ih => simp [ih, rotateHalves, rotl_rotl]

/-- Settles O40: `CUM` is the running sum of `SHIFT` (R114). -/
theorem iterativeKeyScheduleIsTheClosedForm : Obligations.IterativeKeyScheduleIsTheClosedForm := by
  intro K i
  rw [subkeyIterative, runningHalves, foldl_rotateHalves, ← cum_is_running_sum i, subkey_eq_compressHalves, rotateHalves]

/-! ## The unused key bits (R117) -/

/-- `PC1` takes no byte's last bit (R99 (d)). -/
theorem tablePC1_pred_mod_eight {q : Nat} (hq : q < 56) : (tablePC1.entries.getD q 0 - 1) % 8 ≠ 7 := by
  have hentry : q < tablePC1.entries.length := hq.trans_eq tablePC1.length_eq.symm
  have hmem := List.getElem_mem hentry
  have hmod := tablePC1_distinct.2 _ hmem
  have hrange := tablePC1.in_range _ hmem
  rw [List.getD_eq_getElem _ 0 hentry]
  omega

theorem keyHalves_eq_of_agree (h : ∀ i < 64, i % 8 ≠ 7 → K.getMsbD i = K'.getMsbD i) : keyHalves K = keyHalves K' := by
  apply BitVec.eq_of_getMsbD_eq
  intro q hq
  rw [keyHalves_getMsbD K hq, keyHalves_getMsbD K' hq]
  exact h _ (entry_pred_lt tablePC1 hq) (tablePC1_pred_mod_eight hq)

/-- Settles O41: a key enters its subkeys through its halves alone. -/
theorem unusedKeyBitsInfluenceNothing : Obligations.UnusedKeyBitsInfluenceNothing := by
  intro K K' h i
  rw [subkey_eq_compressHalves, subkey_eq_compressHalves, halfC0, halfD0, halfC0, halfD0, keyHalves_eq_of_agree h]

/-! ## Degenerate keys (R120) -/

/-- Rotation moves equal bits onto each other. -/
theorem rotl_of_constant (h : C = 0 ∨ C = BitVec.allOnes 28) (s : Nat) : rotl C s = C := by
  apply BitVec.eq_of_getMsbD_eq
  intro i hi
  have hmod : (i + s) % 28 < 28 := Nat.mod_lt _ (by decide)
  rw [rotl_getMsbD C hi]
  obtain rfl | rfl := h
  · simp
  · rw [BitVec.getMsbD_allOnes, BitVec.getMsbD_allOnes, decide_eq_true hmod, decide_eq_true hi]

theorem subkey_of_constant_halves (hC : halfC0 K = 0 ∨ halfC0 K = BitVec.allOnes 28)
    (hD : halfD0 K = 0 ∨ halfD0 K = BitVec.allOnes 28) (i : Fin 16) : subkey K i = compressHalves (halfC0 K) (halfD0 K) := by
  rw [subkey_eq_compressHalves, rotl_of_constant hC, rotl_of_constant hD]

/-- With equal subkeys the reversed order is the order itself (R142). -/
theorem keyOrder_eq_of_constant {rk : RoundKeys} (h : ∀ i j, rk i = rk j) (d d' : Bool) : keyOrder rk d = keyOrder rk d' :=
  List.map_congr_left fun _ _ => h _ _

theorem blockEnc_eq_blockDec_of_constant {rk : RoundKeys} (h : ∀ i j, rk i = rk j) (X : Block) :
    blockEnc X rk = blockDec X rk := by
  rw [blockEnc, blockDec, feistelNetwork, feistelNetwork, keyOrder_eq_of_constant h false true]

/-- Settles O42: the subkeys are all the compression of the halves as they are, so their order does not matter. -/
theorem degenerateKeysHaveEqualSubkeys : Obligations.DegenerateKeysHaveEqualSubkeys := by
  intro K hC hD
  have hequal : ∀ i j, subkey K i = subkey K j := fun i j =>
    (subkey_of_constant_halves hC hD i).trans (subkey_of_constant_halves hC hD j).symm
  exact ⟨hequal, blockEnc_eq_blockDec_of_constant hequal⟩

end Sys2Proof.Proofs
end

section
/-! The S-box stage (42_sbox_stage.md section 1): a lookup's value fits a nibble, and its group's bits are the input's. -/

namespace Sys2Proof.Proofs

open Sys2Proof Sys2Proof.Machine

/-- A lookup's value fits four bits at every row and column, as R135's range check has it inside the table. -/
theorem sboxValue_lt (b : SBox) (row col : Nat) : b.value row col < 16 := by
  rw [SBox.value]
  by_cases hrow : row < b.rows.length
  · rw [List.getD_eq_getElem _ _ hrow]
    by_cases hcol : col < b.rows[row].length
    · rw [List.getD_eq_getElem _ _ hcol]
      exact Nat.lt_succ_of_le (b.four_bit_values _ (List.getElem_mem hrow) _ (List.getElem_mem hcol))
    · rw [List.getD_eq_default _ _ (Nat.le_of_not_lt hcol)]
      decide
  · rw [List.getD_eq_default _ _ (Nat.le_of_not_lt hrow), List.getD_nil]
    decide

/-- `bits_4` loses nothing of a table entry (R132). -/
theorem sboxOut_toNat (A : Subkey) (g : Fin 8) :
    (sboxOut A g).toNat = (sboxOf g).value (sboxRow (sboxGroup A g)) (sboxCol (sboxGroup A g)) := by
  rw [sboxOut, BitVec.toNat_ofNat, Nat.mod_eq_of_lt (sboxValue_lt _ _ _)]

theorem sboxGroup_getMsbD (A : Subkey) (g : Fin 8) {j : Nat} (hj : j < 6) :
    (sboxGroup A g).getMsbD j = A.getMsbD (6 * g + j) := by
  rw [sboxGroup, slice_getMsbD _ (by omega), decide_eq_true hj, Bool.true_and]

/-- Settles O43: nibble `g` is S-box `g`'s entry (R132), and the row and column bits (R131) are the input's (R130). -/
theorem substituteLooksUpEachGroup : Obligations.SubstituteLooksUpEachGroup := by
  intro A g
  rw [slice_substitute, sboxOut_toNat, SBox.value, sboxRow, sboxCol]
  simp only [sboxGroup_getMsbD, Nat.reduceLT, Nat.add_zero]

end Sys2Proof.Proofs
end

section
/-! The Feistel network (43_feistel_round.md sections 2 and 3): its rounds as a sequence of halves (R141 to R143), the micro-steps as one such sequence (R145), and the inverse by the reversed keys (R144, R148). -/

namespace Sys2Proof.Proofs

open Sys2Proof Sys2Proof.Machine

variable {rk : RoundKeys} {decrypting : Bool}

/-! ## The order of the keys (R142) -/

theorem keyOrder_getElem (i : Fin 16) (h : i.val < (keyOrder rk decrypting).length) :
    (keyOrder rk decrypting)[i.val] = rk (roundKeyIndex decrypting i) := by
  simp [keyOrder]

/-- The index `15-i` is the `i`-th from the end. -/
theorem roundKeyIndex_not (decrypting : Bool) (i : Fin 16) :
    roundKeyIndex (!decrypting) i = roundKeyIndex decrypting i.rev := by
  revert decrypting i
  decide

/-- The two directions use the keys in opposite orders. -/
theorem keyOrder_not (rk : RoundKeys) (decrypting : Bool) :
    keyOrder rk (!decrypting) = (keyOrder rk decrypting).reverse := by
  simp [keyOrder, ← List.map_reverse, List.finRange_reverse, roundKeyIndex_not]

/-! ## The rounds (R141, R143) -/

/-- Halves that make a round for each key arrive where the rounds do. -/
theorem foldl_feistelRound_of_halves {keys : List Subkey} {L R : Nat → Half}
    (h : ∀ i (hi : i < keys.length), L (i + 1) = R i ∧ R (i + 1) = L i ^^^ roundFunction (R i) keys[i]) :
    keys.foldl feistelRound (L 0, R 0) = (L keys.length, R keys.length) := by
  induction keys generalizing L R with
  | nil => rfl
  | cons k keys ih =>
    obtain ⟨hL, hR⟩ := h 0 (Nat.zero_lt_succ _)
    have hround : feistelRound (L 0, R 0) k = (L 1, R 1) := Prod.ext hL.symm hR.symm
    rw [List.foldl_cons, hround]
    exact ih (L := fun i => L (i + 1)) (R := fun i => R (i + 1)) fun i hi => h (i + 1) (Nat.succ_lt_succ hi)

/-- Settles O44: the network is the rounds over the ordered keys, and its join puts the right half first. -/
theorem networkIsSixteenRoundsAndTheFinalSwap : Obligations.NetworkIsSixteenRoundsAndTheFinalSwap := by
  intro B rk decrypting L R hL hR hrounds
  have hsplit : splitBlock B = (L 0, R 0) := Prod.ext hL.symm hR.symm
  have hlength : (keyOrder rk decrypting).length = 16 := by simp [keyOrder]
  have hhalves : (keyOrder rk decrypting).foldl feistelRound (L 0, R 0) = (L 16, R 16) := by
    rw [foldl_feistelRound_of_halves, hlength]
    intro i hi
    rw [keyOrder_getElem ⟨i, hi.trans_eq hlength⟩ hi]
    exact hrounds ⟨i, hi.trans_eq hlength⟩
  rw [feistelNetwork, hsplit, hhalves, joinSwapped]

/-! ## The micro-steps (R145) -/

/-- With `i` rounds done, below sixteen, a micro-step is round `i`. -/
theorem engineRound_of_rnd_eq {e : RoundEngine} {i : Fin 16} (h : e.rnd = i) :
    engineRound rk decrypting e = ⟨e.R, e.L ^^^ roundFunction e.R (rk (roundKeyIndex decrypting i)), i + 1⟩ := by
  obtain ⟨L, R, rnd⟩ := e
  obtain rfl : rnd = i := h
  exact dif_pos i.isLt

/-- The round engine after `n` micro-steps. -/
def engineAfter (B : Block) (rk : RoundKeys) (decrypting : Bool) (n : Nat) : RoundEngine :=
  (engineRound rk decrypting)^[n] (engineLoad B)

theorem engineAfter_succ (B : Block) (n : Nat) :
    engineAfter B rk decrypting (n + 1) = engineRound rk decrypting (engineAfter B rk decrypting n) :=
  Function.iterate_succ_apply' _ _ _

/-- `RND` counts the micro-steps up to the sixteenth. -/
theorem engineAfter_rnd (B : Block) {n : Nat} (hn : n ≤ 16) : (engineAfter B rk decrypting n).rnd = n := by
  induction n with
  | zero => rfl
  | succ n ih =>
    have hrnd := ih (Nat.le_of_succ_le hn)
    rw [engineAfter_succ, engineRound_of_rnd_eq (i := ⟨n, hn⟩) hrnd]

/-- Settles O46: the hidden `L` and `R` after each micro-step are a sequence of halves as the network makes it. -/
theorem microStepsAreTheNetwork : Obligations.MicroStepsAreTheNetwork := by
  intro B rk decrypting
  change engineUnload (engineAfter B rk decrypting 16) = _
  refine (networkIsSixteenRoundsAndTheFinalSwap B rk decrypting (fun n => (engineAfter B rk decrypting n).L)
    (fun n => (engineAfter B rk decrypting n).R) rfl rfl fun i => ?_).symm
  have hrnd : (engineAfter B rk decrypting i).rnd = i := engineAfter_rnd B i.isLt.le
  rw [engineAfter_succ, engineRound_of_rnd_eq hrnd]
  exact ⟨rfl, rfl⟩

/-! ## The inverse (R144, R148) -/

/-- A round made on the swapped result with the same key gives back the halves, swapped. -/
theorem feistelRound_swap_feistelRound (LR : Half × Half) (k : Subkey) :
    feistelRound (feistelRound LR k).swap k = LR.swap := by
  simp [feistelRound, Prod.swap]

/-- The last key's round is undone first. -/
theorem foldl_feistelRound_reverse (keys : List Subkey) (LR : Half × Half) :
    keys.reverse.foldl feistelRound (keys.foldl feistelRound LR).swap = LR.swap := by
  induction keys generalizing LR with
  | nil => rfl
  | cons k keys ih =>
    simp only [List.reverse_cons, List.foldl_append, List.foldl_cons, List.foldl_nil, ih, feistelRound_swap_feistelRound]

/-- The network of the other direction undoes the network: the final swap hands it the swapped halves (R143). -/
theorem feistelNetwork_not_feistelNetwork (B : Block) (rk : RoundKeys) (decrypting : Bool) :
    feistelNetwork (feistelNetwork B rk decrypting) rk (!decrypting) = B := by
  rw [feistelNetwork, feistelNetwork, splitBlock_joinSwapped, keyOrder_not, foldl_feistelRound_reverse,
    joinSwapped_splitBlock]

/-- Settles O45: each direction is the other's reversed order. -/
theorem networkIsInvertedByReversedKeys : Obligations.NetworkIsInvertedByReversedKeys :=
  fun B rk => ⟨feistelNetwork_not_feistelNetwork B rk false, feistelNetwork_not_feistelNetwork B rk true⟩

/-- Settles O47: `IP` undoes `FP` between the two networks, and `FP` undoes `IP` after them (R100). -/
theorem blockFunctionsAreInverse : Obligations.BlockFunctionsAreInverse := by
  intro X rk
  obtain ⟨hdec, henc⟩ := networkIsInvertedByReversedKeys (permute X tableIP) rk
  constructor
  · rw [blockEnc, blockDec, permute_tableIP_permute_tableFP, hdec, permute_tableFP_permute_tableIP]
  · rw [blockEnc, blockDec, permute_tableIP_permute_tableFP, henc, permute_tableFP_permute_tableIP]

end Sys2Proof.Proofs
end

section
/-! The CBC commands one by one (44_cbc_commands.md rules R162 to R168): how their words reach them, their refusals, and what `BLK` leaves. -/

namespace Sys2Proof.Proofs

open Sys2Proof Sys2Proof.Machine Sys2Proof.Claims

variable {op arg mode : BitVec 8} {payload len : BitVec 64} {i : Instr} {s t : State} {data : Block} {e : Exc}

/-! ## From the word to the command (R74 step 2) -/

theorem exec_eq_refusedState (h : refusal i s = some e) : exec i s = .next (refusedState e s) := by
  rw [exec_of_refusal_some h, raise_eq_refusedState]

theorem afterWord_of_command (h : decodeFields op arg payload = .command i) (s : State) :
    afterWord op arg payload s = exec i s := by
  rw [afterWord, step_present_command, executeWord_of_decode ((decode_mkCmd op arg payload).trans h)]

theorem afterWord_of_illegal {d : DecodeError} (h : decodeFields op arg payload = .illegal d) (s : State) :
    afterWord op arg payload s = .next (refusedState .illegalCommand s) := by
  rw [afterWord, step_present_command, executeWord_of_illegal ((decode_mkCmd op arg payload).trans h),
    raise_eq_refusedState]

/-- A command without operands runs from its one word and is refused in every other. -/
theorem afterWord_of_decodeBare (h : decodeFields op arg payload = decodeBare i arg payload) (s : State) :
    afterWord op arg payload s =
      if arg = 0 ∧ payload = 0 then exec i s else .next (refusedState .illegalCommand s) := by
  unfold decodeBare at h
  split_ifs at h with hfields
  · exact (afterWord_of_command h s).trans (if_pos hfields).symm
  · exact (afterWord_of_illegal h s).trans (if_neg hfields).symm

/-- A command with a payload alone runs from the words whose `ARG` is 0 and is refused in every other. -/
theorem afterWord_of_decodePayloadOnly (h : decodeFields op arg payload = decodePayloadOnly i arg) (s : State) :
    afterWord op arg payload s = if arg = 0 then exec i s else .next (refusedState .illegalCommand s) := by
  unfold decodePayloadOnly at h
  split_ifs at h with harg
  · exact (afterWord_of_command h s).trans (if_pos harg).symm
  · exact (afterWord_of_illegal h s).trans (if_neg harg).symm

/-! ## `LDIV` (R162) -/

theorem exec_ldiv_idle (hidle : s.seq = .idle) (iv : Block) :
    exec (.ldiv iv) s = .next { s with iv := iv, ivvalid := true, resp := okResp } := by
  rw [exec_of_refusal_none (by simpa [refusal] using hidle)]
  rfl

/-- Settles O13: the refusal by its check, the load by its effect, which looks at no bit of the IV. -/
theorem ldivLoadsTheIvInIdle : Obligations.LdivLoadsTheIvInIdle :=
  ⟨fun _ _ s => afterWord_of_decodePayloadOnly rfl s, fun _ _ hseq => exec_eq_refusedState (by simpa [refusal] using hseq),
    fun iv _ hidle => exec_ldiv_idle hidle iv⟩

/-! ## `START` (R163) -/

theorem exec_start_reserved (hmode : 1#8 < mode) (len : BitVec 64) (s : State) :
    exec (.start mode len) s = .next (refusedState .illegalCommand s) :=
  exec_eq_refusedState (by simp [refusal, hmode])

/-- The decoder refuses a reserved mode as `START` itself does, so the word and the command agree in every mode. -/
theorem afterWord_start_eq_exec (mode : BitVec 8) (len : BitVec 64) (s : State) :
    afterWord 0x10 mode len s = exec (.start mode len) s := by
  by_cases hmode : mode ≤ 1#8
  · exact afterWord_start hmode len s
  · have hillegal : decodeFields 0x10 mode len = .illegal .reservedField := if_neg hmode
    rw [afterWord_of_illegal hillegal, exec_start_reserved (BitVec.not_le.mp hmode)]

/-- Every check of `START` passes. -/
theorem refusal_start_eq_none (hmode : mode ≤ 1#8) (hidle : s.seq = .idle) (hk : s.kvalid = true)
    (hiv : s.ivvalid = true) (hlen : mode = 1#8 → len.toNat % 8 = 0) : refusal (.start mode len) s = none := by
  rw [refusal_start hmode]
  simpa [hidle, hk, hiv] using hlen

/-- Settles O14: the refusals in the order of the checks, and the opening as the effect of `START`. -/
theorem startOpensAMessage : Obligations.StartOpensAMessage := by
  refine ⟨afterWord_start_eq_exec, fun mode len s hmode => exec_start_reserved hmode len s,
    fun mode len s hmode hseq => ?protocol, fun mode len s hmode hidle hk => ?key,
    fun mode len s hmode hidle hk hiv => ?iv, fun len s hidle hk hiv hlen => ?length,
    fun mode len s hmode hidle hk hiv hlen => ?opens⟩
  case protocol => exact exec_eq_refusedState (by rw [refusal_start hmode, if_pos hseq])
  case key => exact exec_eq_refusedState (by simp [refusal_start (mode := mode) hmode, hidle, hk])
  case iv => exact exec_eq_refusedState (by simp [refusal_start (mode := mode) hmode, hidle, hk, hiv])
  case length => exact exec_eq_refusedState (by simp [refusal_start (mode := 1#8) (by decide), hidle, hk, hiv, hlen])
  case opens =>
    rw [exec_of_refusal_none (refusal_start_eq_none hmode hidle hk hiv hlen)]
    rfl

/-! ## `BLK` (R164) -/

theorem refusal_blk_eq_none (hopen : s.seq ≠ .idle) (data : Block) : refusal (.blk data) s = none := by
  simpa [refusal] using hopen

theorem effect_blk_of_enc (hq : s.seq = .enc) (data : Block) : effect (.blk data) s =
    (s.chainStep (encOutput data s) (encOutput data s) (encBytes s)).respondData (encOutput data s) :=
  if_pos hq

theorem effect_blk_of_dec (hq : s.seq = .dec) (data : Block) : effect (.blk data) s =
    (s.chainStep (decOutput data s) data Config.blockBytes).respondData (decOutput data s) :=
  if_neg (by simp [hq])

/-- Either direction is a step of the chain that takes off 8 bytes, or, encrypting, the fewer that are left. -/
theorem effect_blk_eq_chainStep (data : Block) (s : State) : ∃ out chain n,
    effect (.blk data) s = (s.chainStep out chain n).respondData out ∧ s.rem.toNat - n = s.rem.toNat - 8 := by
  by_cases hq : s.seq = .enc
  · refine ⟨_, _, _, if_pos hq, ?_⟩
    rw [encBytes, Config.blockBytes]
    omega
  · exact ⟨_, _, _, if_neg hq, rfl⟩

/-- An accepted `BLK` latches the block it answers. -/
theorem effect_blk_resp (data : Block) (s : State) :
    (effect (.blk data) s).resp = some (mkResp rcodeOkData (effect (.blk data) s).dout) := by
  obtain ⟨out, chain, n, heffect, -⟩ := effect_blk_eq_chainStep data s
  rw [heffect]
  rfl

theorem effect_blk_ovalid (data : Block) (s : State) : (effect (.blk data) s).ovalid = true := by
  obtain ⟨out, chain, n, heffect, -⟩ := effect_blk_eq_chainStep data s
  rw [heffect]
  rfl

theorem effect_blk_rk (data : Block) (s : State) : (effect (.blk data) s).rk = s.rk := by
  obtain ⟨out, chain, n, heffect, -⟩ := effect_blk_eq_chainStep data s
  rw [heffect]
  rfl

theorem effect_blk_rem_toNat (data : Block) (s : State) : (effect (.blk data) s).rem.toNat = s.rem.toNat - 8 := by
  obtain ⟨out, chain, n, heffect, hn⟩ := effect_blk_eq_chainStep data s
  rw [heffect, State.respondData_rem, State.chainStep_rem_toNat, hn]

/-- The message ends with its last byte (R161). -/
theorem effect_blk_seq (data : Block) (s : State) :
    (effect (.blk data) s).seq = if (effect (.blk data) s).rem = 0 then .idle else s.seq := by
  obtain ⟨out, chain, n, heffect, -⟩ := effect_blk_eq_chainStep data s
  rw [heffect]
  exact State.chainStep_seq_cases s out chain n

/-- The bytes left after an encrypting block, in bits. -/
theorem ofNat_sub_min_eight (r : BitVec 64) :
    BitVec.ofNat 64 (r.toNat - min r.toNat 8) = if r ≤ 8 then 0 else r - 8 := by
  split <;> bv_omega

/-- No byte is left of at most 8. -/
theorem sub_min_eight_eq_zero (r : BitVec 64) : r.toNat - min r.toNat 8 = 0 ↔ r ≤ 8 := by
  bv_omega

/-- The bytes left after a decrypting block, in bits. -/
theorem ofNat_sub_eight {r : BitVec 64} (h : 8 ≤ r) : BitVec.ofNat 64 (r.toNat - 8) = r - 8 := by
  bv_omega

theorem sub_eight_eq_zero {r : BitVec 64} (h : 8 ≤ r) : r.toNat - 8 = 0 ↔ r = 8 := by
  bv_omega

theorem exec_blk_enc (hq : s.seq = .enc) {c : Block}
    (hc : c = blockEnc (keep data (min s.rem.toNat 8) ^^^ s.prev) (subkey s.key)) :
    exec (.blk data) s = .next { s with
      dout := c, prev := c, ovalid := true, rem := if s.rem ≤ 8 then 0 else s.rem - 8,
      seq := if s.rem ≤ 8 then .idle else .enc, resp := dataResp c } := by
  have hout : encOutput data s = c := hc.symm
  rw [exec_of_refusal_none (refusal_blk_eq_none (by simp [hq]) data), effect_blk_of_enc hq, hout, ← ofNat_sub_min_eight]
  simp only [← sub_min_eight_eq_zero, ← hq]
  rfl

theorem exec_blk_dec (hq : s.seq = .dec) (hrem : 8 ≤ s.rem) {p : Block}
    (hp : p = blockDec data (subkey s.key) ^^^ s.prev) :
    exec (.blk data) s = .next { s with
      dout := p, prev := data, ovalid := true, rem := s.rem - 8,
      seq := if s.rem = 8 then .idle else .dec, resp := dataResp p } := by
  have hout : decOutput data s = p := hp.symm
  rw [exec_of_refusal_none (refusal_blk_eq_none (by simp [hq]) data), effect_blk_of_dec hq, hout, ← ofNat_sub_eight hrem]
  simp only [← sub_eight_eq_zero hrem, ← hq]
  rfl

/-- Settles O15: each direction's effect, its `REM` and its end of the message read from the natural numbers. -/
theorem blkAdvancesTheChain : Obligations.BlkAdvancesTheChain :=
  ⟨fun _ _ s => afterWord_of_decodePayloadOnly rfl s, fun _ _ hidle => exec_eq_refusedState (if_pos hidle),
    fun _ _ _ hq hc => exec_blk_enc hq hc, fun _ _ _ hq hrem hp => exec_blk_dec hq hrem hp⟩

/-! ## `ABORT` (R167) -/

/-- Settles O16: `ABORT` has no check, and its effect drops the message. -/
theorem abortDropsTheMessage : Obligations.AbortDropsTheMessage :=
  ⟨fun _ _ s => afterWord_of_decodeBare rfl s,
    fun s => ⟨s.dropMessage.respondOk, rfl, rfl, rfl, rfl, rfl, rfl, rfl, rfl, rfl, rfl, rfl⟩⟩

/-! ## `RDOUT` (R168) -/

theorem exec_rdout_valid (ho : s.ovalid = true) : exec .rdout s = .next { s with resp := dataResp s.dout } := by
  rw [exec_of_refusal_none (by simpa [refusal] using ho)]
  rfl

theorem exec_rdout_invalid (ho : s.ovalid = false) : exec .rdout s = .next (refusedState .outputNotValid s) :=
  exec_eq_refusedState (if_pos ho)

/-- `RDOUT` changes nothing where the response port holds the latched block already. -/
theorem exec_rdout_repeats (ho : s.ovalid = true) (hresp : s.resp = dataResp s.dout) : exec .rdout s = .next s := by
  rw [exec_rdout_valid ho, ← hresp]

theorem exec_rdout_after_blk (hopen : s.seq ≠ .idle) (h : exec (.blk data) s = .next t) : exec .rdout t = .next t := by
  rw [exec_of_refusal_none (refusal_blk_eq_none hopen data)] at h
  cases h
  exact exec_rdout_repeats (effect_blk_ovalid data s) (effect_blk_resp data s)

/-- The write sets that hold `DOUT` or `OVALID` are those of `START`, `BLK` and `ABORT`. -/
theorem dout_ovalid_notMem_writeSet (h : ∀ m len d, i ≠ .start m len ∧ i ≠ .blk d ∧ i ≠ .abort) :
    Reg.dout ∉ writeSet i ∧ Reg.ovalid ∉ writeSet i := by
  cases i <;> simp_all [writeSet]

theorem output_kept (h : exec i s = .next t)
    (hi : succeeded t → ∀ m len d, i ≠ .start m len ∧ i ≠ .blk d ∧ i ≠ .abort) :
    t.dout = s.dout ∧ t.ovalid = s.ovalid := by
  obtain ⟨hwrites, hrefused⟩ := runs_frame (exec_runs h)
  by_cases hs : succeeded t
  · obtain ⟨hdout, hovalid⟩ := dout_ovalid_notMem_writeSet (hi hs)
    exact ⟨(hwrites hs .dout hdout).symm, (hwrites hs .ovalid hovalid).symm⟩
  · exact ⟨(hrefused hs .dout (by decide)).symm, (hrefused hs .ovalid (by decide)).symm⟩

theorem runs_start_ovalid (hr : Runs (.start mode len) s t) (hs : succeeded t) : t.ovalid = false := by
  cases hr with
  | refused => exact absurd hs (not_succeeded_raise _ _)
  | start => rfl

/-- Settles O17: the response of a `BLK` is the latched block, the frame keeps it, and three events clear `OVALID`. -/
theorem rdoutRepeatsTheLastOutput : Obligations.RdoutRepeatsTheLastOutput := by
  refine ⟨fun _ _ s => afterWord_of_decodeBare rfl s, fun _ => exec_rdout_invalid, fun _ => exec_rdout_valid,
    fun _ _ _ => exec_rdout_after_blk, fun _ _ _ => output_kept, fun s t h => exec_rdout_invalid ?_⟩
  obtain hreset | habort | ⟨m, len, hstart, hs⟩ := h
  · cases hreset
    rfl
  · cases habort
    rfl
  · exact runs_start_ovalid (exec_runs hstart) hs

end Sys2Proof.Proofs
end

section
/-! Whole messages (44_cbc_commands.md section 3, rules R165, R166, R169, R170): the chain block by block, and `START` with its `BLK`s as the chain. -/

namespace Sys2Proof.Proofs

open Sys2Proof Sys2Proof.Machine Sys2Proof.Claims

variable {rk : RoundKeys} {iv : Block} {n : Nat} {P C : Nat → Block} {mode : BitVec 8} {len : BitVec 64} {i : Instr}
  {s t u : State} {r : Resp} {ws : List Cmd} {out : List Block}

/-! ## The chain (R165, R166) -/

/-- The first block's ciphertext is the initial value of the rest of the chain. -/
theorem encryptsChain_succ : EncryptsChain rk iv (n + 1) P C ↔
    C 0 = blockEnc (P 0 ^^^ iv) rk ∧ EncryptsChain rk (C 0) n (fun k => P (k + 1)) (fun k => C (k + 1)) := by
  have hprev : ∀ k, (if k = 0 then C 0 else C (k - 1 + 1)) = C k := by
    rintro (_ | k) <;> rfl
  simp only [EncryptsChain, Nat.forall_lt_succ_left, Nat.add_sub_cancel, Nat.succ_ne_zero, if_true, if_false, hprev]

/-- A block of the chain read backwards. -/
theorem eq_blockEnc_iff (c p v : Block) (rk : RoundKeys) : c = blockEnc (p ^^^ v) rk ↔ p = blockDec c rk ^^^ v := by
  constructor
  · rintro rfl
    rw [(blockFunctionsAreInverse _ _).1, BitVec.xor_assoc, BitVec.xor_self, BitVec.xor_zero]
  · rintro rfl
    rw [BitVec.xor_assoc, BitVec.xor_self, BitVec.xor_zero, (blockFunctionsAreInverse _ _).2]

/-- The chain read backwards is the decryption (R166). -/
theorem encryptsChain_iff_blockDec :
    EncryptsChain rk iv n P C ↔ ∀ k < n, P k = blockDec (C k) rk ^^^ (if k = 0 then iv else C (k - 1)) := by
  simp only [EncryptsChain, eq_blockEnc_iff]

/-! ## A message's blocks, in either direction -/

/-- `P_k` of a message of `n` bytes: the bytes an encryption takes of its payloads, the blocks a decryption answers. -/
def plainBlocks (mode : BitVec 8) (n : Nat) (ds out : List Block) (k : Nat) : Block :=
  if mode = 0#8 then keep (ds.getD k 0) (min (n - 8 * k) 8) else out.getD k 0

/-- `C_k` of a message: the blocks an encryption answers, the payloads of a decryption. -/
def cipherBlocks (mode : BitVec 8) (ds out : List Block) (k : Nat) : Block :=
  if mode = 0#8 then out.getD k 0 else ds.getD k 0

theorem plainBlocks_succ (mode : BitVec 8) (n : Nat) (d o : Block) (ds out : List Block) (k : Nat) :
    plainBlocks mode n (d :: ds) (o :: out) (k + 1) = plainBlocks mode (n - 8) ds out k := by
  have hleft : n - 8 * (k + 1) = n - 8 - 8 * k := by omega
  rw [plainBlocks, plainBlocks, hleft, List.getD_cons_succ, List.getD_cons_succ]

theorem cipherBlocks_succ (mode : BitVec 8) (d o : Block) (ds out : List Block) (k : Nat) :
    cipherBlocks mode (d :: ds) (o :: out) (k + 1) = cipherBlocks mode ds out k := by
  rw [cipherBlocks, cipherBlocks, List.getD_cons_succ, List.getD_cons_succ]

/-- In either direction one `BLK` hands on the ciphertext block, the encryption of the plaintext block (R164). -/
theorem effect_blk_chain (hq : s.seq = if mode = 0#8 then .enc else .dec) (d : Block) (ds out : List Block) :
    (effect (.blk d) s).prev = cipherBlocks mode (d :: ds) ((effect (.blk d) s).dout :: out) 0 ∧
    (effect (.blk d) s).prev =
      blockEnc (plainBlocks mode s.rem.toNat (d :: ds) ((effect (.blk d) s).dout :: out) 0 ^^^ s.prev) s.rk := by
  by_cases hmode : mode = 0#8
  · rw [if_pos hmode] at hq
    rw [cipherBlocks, plainBlocks, if_pos hmode, if_pos hmode, effect_blk_of_enc hq]
    exact ⟨rfl, rfl⟩
  · rw [if_neg hmode] at hq
    rw [cipherBlocks, plainBlocks, if_neg hmode, if_neg hmode, effect_blk_of_dec hq]
    exact ⟨rfl, (eq_blockEnc_iff _ _ _ _).mpr rfl⟩

/-! ## The host issues a message (R200) -/

theorem not_error_of_succeeded (hs : succeeded t) (hr : t.resp = some r) : ¬ 0x80#8 ≤ respRcode r := by
  obtain ⟨r', hr', hcode⟩ := hs
  obtain rfl : r' = r := Option.some.inj (hr'.symm.trans hr)
  obtain hcode | hcode := hcode <;> rw [hcode] <;> decide

/-- A command that passes its checks is answered, and the host goes on from its effect. -/
theorem issueAll_encode_cons (hwf : i.wellFormed = true) (hok : refusal i s = none) (hresp : (effect i s).resp = some r)
    (hrest : issueAll ws (effect i s) = (u, .ok out)) : issueAll (encode i :: ws) s = (u, .ok (respBlocks r ++ out)) := by
  have hexec : executeWord (encode i) s = .next (effect i s) :=
    (executeWord_of_decode (decode_encode hwf) s).trans (exec_of_refusal_none hok)
  exact issueAll_cons_ok (issue_of_executeWord hexec hresp) (not_error_of_succeeded (succeeded_effect i s) hresp) hrest

/-- In an open message with bytes left the sequencer is in the mode's state. -/
theorem openedSeq_of_ne_zero (hlen : len ≠ 0) : openedSeq mode len = if mode = 0#8 then .enc else .dec :=
  if_neg hlen

/-- A block leaves `STATE` as `START` would set it for the bytes that are left. -/
theorem effect_blk_seq_eq_openedSeq (hseq : s.seq = openedSeq mode s.rem) (hrem : s.rem ≠ 0) (d : Block) :
    (effect (.blk d) s).seq = openedSeq mode (effect (.blk d) s).rem := by
  rw [effect_blk_seq, hseq, openedSeq_of_ne_zero hrem]
  rfl

/-- The `BLK`s of the bytes that are left answer the rest of the chain, from `PREV` on, and end the message. -/
theorem issueAll_blks {ds : List Block} (hseq : s.seq = openedSeq mode s.rem)
    (hcount : ds.length = (s.rem.toNat + 7) / 8) :
    ∃ t out, issueAll (ds.map fun d => encode (.blk d)) s = (t, .ok out) ∧ out.length = ds.length ∧ t.seq = .idle ∧
      t.rem = 0 ∧ EncryptsChain s.rk s.prev ds.length (plainBlocks mode s.rem.toNat ds out) (cipherBlocks mode ds out) := by
  induction ds generalizing s with
  | nil =>
    have hrem : s.rem = 0 := by
      rw [List.length_nil] at hcount
      bv_omega
    exact ⟨s, [], rfl, rfl, hseq.trans ((openedSeq_eq_idle _ _).mpr hrem), hrem, nofun⟩
  | cons d ds ih =>
    rw [List.length_cons] at hcount
    have hrem : s.rem ≠ 0 := by
      intro h
      simp [h] at hcount
    have hdir : s.seq = if mode = 0#8 then .enc else .dec := hseq.trans (openedSeq_of_ne_zero hrem)
    have hopen : s.seq ≠ .idle := fun h => hrem ((openedSeq_eq_idle _ _).mp (hseq.symm.trans h))
    have hleft := effect_blk_rem_toNat d s
    obtain ⟨t, out, hissue, hlength, hidle, hend, hchain⟩ :=
      ih (s := effect (.blk d) s) (effect_blk_seq_eq_openedSeq hseq hrem d) (by omega)
    obtain ⟨hcipher, hblock⟩ := effect_blk_chain hdir d ds out
    have hfirst := issueAll_encode_cons (i := .blk d) rfl (refusal_blk_eq_none hopen d) (effect_blk_resp d s) hissue
    rw [respBlocks_data, List.singleton_append] at hfirst
    refine ⟨t, _, hfirst, by simp [hlength], hidle, hend, ?_⟩
    rw [List.length_cons, encryptsChain_succ, ← hcipher]
    simp only [plainBlocks_succ, cipherBlocks_succ]
    rw [effect_blk_rk, hleft] at hchain
    exact ⟨hblock, hchain⟩

/-- `START` and the `BLK`s of its bytes, in either mode: a whole chain from `IV`, and an ended message. -/
theorem issueAll_message {ds : List Block} (hmode : mode ≤ 1#8) (hidle : s.seq = .idle) (hk : s.kvalid = true)
    (hiv : s.ivvalid = true) (hlen : mode = 1#8 → len.toNat % 8 = 0) (hcount : ds.length = (len.toNat + 7) / 8) :
    ∃ t out, issueAll (encode (.start mode len) :: ds.map fun d => encode (.blk d)) s = (t, .ok out) ∧
      out.length = ds.length ∧ t.seq = .idle ∧ t.rem = 0 ∧
      EncryptsChain (subkey s.key) s.iv ds.length (plainBlocks mode len.toNat ds out) (cipherBlocks mode ds out) := by
  obtain ⟨t, out, hissue, hrest⟩ := issueAll_blks (s := effect (.start mode len) s) (mode := mode) rfl hcount
  exact ⟨t, out, issueAll_encode_cons (i := .start mode len) (wellFormed_start.mpr hmode)
    (refusal_start_eq_none hmode hidle hk hiv hlen) rfl hissue, hrest⟩

/-- Settles O48: a message in mode 0, whose plaintext blocks are the kept bytes of the payloads. -/
theorem encryptionMessageFollowsTheChain : Obligations.EncryptionMessageFollowsTheChain :=
  fun _ _ _ hidle hk hiv hcount => issueAll_message (mode := 0#8) (by decide) hidle hk hiv (fun h => absurd h (by decide)) hcount

/-- Settles O49: a message in mode 1, whose ciphertext blocks are the payloads: the chain read backwards. -/
theorem decryptionMessageFollowsTheChain : Obligations.DecryptionMessageFollowsTheChain := by
  intro s len cs hidle hk hiv hlen hcount
  obtain ⟨t, Ps, hissue, hlength, hend, hrem, hchain⟩ :=
    issueAll_message (mode := 1#8) (ds := cs) (by decide) hidle hk hiv (fun _ => hlen) (by omega)
  exact ⟨t, Ps, hissue, hlength, hend, hrem, encryptsChain_iff_blockDec.mp hchain⟩

end Sys2Proof.Proofs
end

section
/-! The status commands (45_status_commands.md rules R180 to R183): the status word as a number, `REM` after `START` and `BLK`, and what a read answers when it is repeated. -/

namespace Sys2Proof.Proofs

open Sys2Proof Sys2Proof.Machine Sys2Proof.Claims

variable {s t : State} {i : Instr}

/-! ## `NOP` (R180) and `CLRERR` (R183) -/

/-- Settles O11: `NOP` has no check, and its effect is its response. -/
theorem nopAnswersOkAndWritesNothing : Obligations.NopAnswersOkAndWritesNothing :=
  ⟨fun _ _ s => afterWord_of_decodeBare rfl s, fun _ => exec_of_refusal_none (i := .nop) rfl⟩

/-- Settles O20: `CLRERR` has no check, and its effect clears `ERR`. -/
theorem clrerrClearsTheErrorRecord : Obligations.ClrerrClearsTheErrorRecord :=
  ⟨fun _ _ s => afterWord_of_decodeBare rfl s, fun _ => exec_of_refusal_none (i := .clrerr) rfl⟩

/-! ## `RDSTAT` (R28, R181) -/

theorem exec_rdstat (s : State) : exec .rdstat s = .next (s.respondData (statusWord s)) :=
  exec_of_refusal_none (i := .rdstat) rfl

/-- A field put above the bits in use adds its value at its place. -/
theorem toNat_or_shiftLeft {x y : BitVec 64} {k a b : Nat} (hx : x.toNat = a) (hy : y.toNat = b) (ha : a < 2 ^ k)
    (hb : b * 2 ^ k < 2 ^ 64) : (x ||| y <<< k).toNat = a + 2 ^ k * b := by
  have hshift : (y <<< k).toNat = b <<< k := by
    rw [BitVec.toNat_shiftLeft, hy, Nat.shiftLeft_eq, Nat.mod_eq_of_lt hb]
  rw [BitVec.toNat_or, hshift, hx, Nat.or_comm, ← Nat.shiftLeft_add_eq_or_of_lt ha, Nat.shiftLeft_eq, Nat.mul_comm,
    Nat.add_comm]

theorem flagBit_toNat (b : Bool) : (flagBit b).toNat = b.toNat := by
  cases b <;> rfl

/-- The five fields of `STATUS` do not overlap, so they add up (R28). -/
theorem statusWord_toNat (s : State) : (statusWord s).toNat = (seqCode s.seq).toNat + 4 * s.kvalid.toNat +
    8 * s.ivvalid.toNat + 16 * s.ovalid.toNat + 256 * (errCode s.err).toNat := by
  have hseq : ((seqCode s.seq).setWidth 64).toNat = (seqCode s.seq).toNat := BitVec.toNat_setWidth_of_le (by decide)
  have herr : ((errCode s.err).setWidth 64).toNat = (errCode s.err).toNat := BitVec.toNat_setWidth_of_le (by decide)
  have hseqLt := (seqCode s.seq).isLt
  have herrLt := (errCode s.err).isLt
  have hk := s.kvalid.toNat_lt
  have hiv := s.ivvalid.toNat_lt
  have ho := s.ovalid.toNat_lt
  have hkvalid := toNat_or_shiftLeft (k := 2) hseq (flagBit_toNat s.kvalid) (by omega) (by omega)
  have hivvalid := toNat_or_shiftLeft (k := 3) hkvalid (flagBit_toNat s.ivvalid) (by omega) (by omega)
  have hovalid := toNat_or_shiftLeft (k := 4) hivvalid (flagBit_toNat s.ovalid) (by omega) (by omega)
  exact toNat_or_shiftLeft (k := 8) hovalid herr (by omega) (by omega)

/-- Settles O18: the status word as a number, with the codes of `STATE` and `ERR` read off value by value. -/
theorem rdstatAnswersTheStatusWord : Obligations.RdstatAnswersTheStatusWord := by
  refine ⟨fun _ _ s => afterWord_of_decodeBare rfl s, fun s => ⟨statusWord s, exec_rdstat s, ?_⟩⟩
  rw [statusWord_toNat]
  congr
  · cases s.seq <;> rfl
  · cases s.err with
    | none => rfl
    | some e => cases e <;> rfl

/-! ## `RDREM` (R182) -/

theorem exec_rdrem (s : State) : exec .rdrem s = .next (s.respondData s.rem) :=
  exec_of_refusal_none (i := .rdrem) rfl

theorem exec_rdrem_of_rem {n : BitVec 64} (h : s.rem = n) : exec .rdrem s = .next { s with resp := dataResp n } := by
  subst h
  exact exec_rdrem s

/-- A command that succeeds has its effect. -/
theorem eq_effect_of_succeeded (h : exec i s = .next t) (hs : succeeded t) : t = effect i s := by
  cases hr : refusal i s with
  | none =>
    rw [exec_of_refusal_none hr] at h
    cases h
    rfl
  | some e =>
    rw [exec_of_refusal_some hr] at h
    cases h
    exact absurd hs (not_succeeded_raise e s)

theorem effect_blk_rem (data : Block) (s : State) :
    (effect (.blk data) s).rem = BitVec.ofNat 64 (s.rem.toNat - min s.rem.toNat 8) := by
  have hrem : s.rem.toNat - min s.rem.toNat 8 = s.rem.toNat - 8 := by omega
  rw [hrem, ← effect_blk_rem_toNat data s, BitVec.ofNat_toNat, BitVec.setWidth_eq]

/-- Settles O19: `RDREM` answers `REM`, which the invariant has at 0 in `IDLE`, `START` sets and a block takes down. -/
theorem rdremAnswersTheRemainingBytes : Obligations.RdremAnswersTheRemainingBytes := by
  refine ⟨fun _ _ s => afterWord_of_decodeBare rfl s, exec_rdrem, fun s hinv hidle => exec_rdrem_of_rem ?idle,
    fun m len s t h hs => exec_rdrem_of_rem ?start, fun d s t _ h hs => exec_rdrem_of_rem ?blk⟩
  case idle =>
    obtain ⟨-, hrem, -⟩ := hinv
    exact hrem hidle
  case start =>
    rw [eq_effect_of_succeeded h hs]
    rfl
  case blk =>
    rw [eq_effect_of_succeeded h hs]
    exact effect_blk_rem d s

/-! ## Repeated reads (20_memory.md section 4) -/

/-- The response port holds the latest response alone. -/
@[simp] theorem respondData_respondData (s : State) (d d' : BitVec 64) :
    (s.respondData d).respondData d' = s.respondData d' := rfl

/-- The response port is no part of `STATUS`. -/
@[simp] theorem statusWord_respondData (s : State) (d : BitVec 64) : statusWord (s.respondData d) = statusWord s := rfl

/-- Settles O23: a read writes the response alone, so the second one reads what the first one read. -/
theorem readsAreIdempotent : Obligations.ReadsAreIdempotent := by
  refine ⟨fun s t h => ?rdstat, fun s t h => ?rdrem, fun s t ho h => ?rdout⟩
  case rdstat =>
    cases (exec_rdstat s).symm.trans h
    rw [exec_rdstat, statusWord_respondData, respondData_respondData]
  case rdrem =>
    cases (exec_rdrem s).symm.trans h
    rw [exec_rdrem, State.respondData_rem, respondData_respondData]
  case rdout =>
    cases (exec_rdout_valid ho).symm.trans h
    exact exec_rdout_repeats ho rfl

end Sys2Proof.Proofs
end

section
/-! The error diffusion of the chain (46_facade_pseudo_ops.md section 2): two chains compared block by block. -/

namespace Sys2Proof.Proofs

open Sys2Proof Sys2Proof.Machine Sys2Proof.Claims

variable {rk : RoundKeys} {iv : Block} {n k i : Nat} {P P' C C' : Nat → Block}

theorem blockEnc_inj {X Y : Block} : blockEnc X rk = blockEnc Y rk ↔ X = Y := by
  refine ⟨fun h => ?_, congrArg (blockEnc · rk)⟩
  rw [← (blockFunctionsAreInverse X rk).1, h, (blockFunctionsAreInverse Y rk).1]

/-- Two chains from one IV agree on a block when its plaintext xor the block before it does. -/
theorem encryptsChain_block_eq_iff (hC : EncryptsChain rk iv n P C) (hC' : EncryptsChain rk iv n P' C') (hk : k < n) :
    C k = C' k ↔ P k ^^^ (if k = 0 then iv else C (k - 1)) = P' k ^^^ (if k = 0 then iv else C' (k - 1)) := by
  rw [hC k hk, hC' k hk, blockEnc_inj]

theorem encryptsChain_eq_before (hC : EncryptsChain rk iv n P C) (hC' : EncryptsChain rk iv n P' C') (hi : i < n)
    (hP : ∀ k < i, P k = P' k) : ∀ k < i, C k = C' k := by
  intro k hk
  rw [encryptsChain_block_eq_iff hC hC' (hk.trans hi), hP k hk]
  induction k with
  | zero => rfl
  | succ k ih =>
    have hk' : k < i := by omega
    have hprev : C k = C' k := by
      rw [encryptsChain_block_eq_iff hC hC' (hk'.trans hi), hP k hk', ih hk']
    simp [hprev]

/-- Past a difference equal plaintext blocks hand it on. -/
theorem encryptsChain_ne_from (hC : EncryptsChain rk iv n P C) (hC' : EncryptsChain rk iv n P' C') (hi : C i ≠ C' i)
    (hP : ∀ k, i < k → k < n → P k = P' k) : ∀ k, i ≤ k → k < n → C k ≠ C' k := by
  intro k hik
  induction k, hik using Nat.le_induction with
  | base => exact fun _ => hi
  | succ k hik ih =>
    intro hk
    rw [Ne, encryptsChain_block_eq_iff hC hC' hk, hP _ (by omega) hk]
    simpa using ih (by omega)

/-- Settles O50: the blocks before the change agree, the changed one differs for that, and hands the difference on. -/
theorem changedBlockDiffusesToTheEnd : Obligations.ChangedBlockDiffusesToTheEnd := by
  intro rk iv n i P P' C C' hC hC' hi hne hP
  have hbefore : ∀ k < i, C k = C' k :=
    encryptsChain_eq_before hC hC' hi fun k hk => hP k (hk.trans hi) hk.ne
  have hchanged : C i ≠ C' i := by
    have hprev : (if i = 0 then iv else C (i - 1)) = if i = 0 then iv else C' (i - 1) :=
      if_ctx_congr Iff.rfl (fun _ => rfl) fun h0 => hbefore _ (Nat.sub_one_lt h0)
    rwa [Ne, encryptsChain_block_eq_iff hC hC' hi, hprev, BitVec.xor_left_inj]
  exact ⟨hbefore, encryptsChain_ne_from hC hC' hchanged fun k hik hk => hP k hk hik.ne'⟩

end Sys2Proof.Proofs
end

section
/-! Hexadecimal text (46_facade_pseudo_ops.md rule R207): each byte's two digits, and how they are read back. -/

namespace Sys2Proof.Proofs

open Sys2Proof Sys2Proof.Machine

theorem hexDigits_getElem? (c : HexCase) {x : Nat} (hx : x < 16) : (hexDigits c)[x]? = some (hexDigit c x) := by
  have hlength : (hexDigits c).length = 16 := by cases c <;> rfl
  rw [hexDigit, List.getD_eq_getElem _ _ (hlength ▸ hx), List.getElem?_eq_getElem (hlength ▸ hx)]

/-- A digit of either letter case has its value. -/
theorem hexValue_hexDigit (c : HexCase) {x : Nat} (hx : x < 16) : hexValue (hexDigit c x) = some x := by
  have hall : ∀ y : Fin 16, hexValue (hexDigit c y) = some y.val := by cases c <;> decide +kernel
  exact hall ⟨x, hx⟩

@[simp] theorem hexText_cons (c : HexCase) (b : Byte) (bytes : List Byte) :
    hexText c (b :: bytes) = hexDigit c (b.toNat / 16) :: hexDigit c (b.toNat % 16) :: hexText c bytes := rfl

theorem hexText_length (c : HexCase) (bytes : List Byte) : (hexText c bytes).length = 2 * bytes.length :=
  length_flatMap_of_groups (fun _ => by rfl) bytes

theorem hexText_getElem? (c : HexCase) (bytes : List Byte) (j : Nat) {t : Nat} (ht : t < 2) :
    (hexText c bytes)[2 * j + t]? =
      bytes[j]?.bind fun b => [hexDigit c (b.toNat / 16), hexDigit c (b.toNat % 16)][t]? :=
  getElem?_flatMap_of_groups (fun _ => by rfl) bytes j ht

/-- A byte is its two nibbles. -/
theorem ofNat_nibbles (b : Byte) : BitVec.ofNat 8 (16 * (b.toNat / 16) + b.toNat % 16) = b := by
  rw [Nat.div_add_mod, BitVec.ofNat_toNat, BitVec.setWidth_eq]

theorem unhexText_hexText (c : HexCase) (bytes : List Byte) : unhexText (hexText c bytes) = some bytes := by
  induction bytes with
  | nil => rfl
  | cons b bytes ih =>
    have hb := b.isLt
    rw [hexText_cons, unhexText, hexValue_hexDigit c (by omega), hexValue_hexDigit c (by omega), ih]
    simp only [ofNat_nibbles]

/-- Settles O55: the digits by the group lemmas at two a byte, and the inverse byte by byte. -/
theorem unhexInvertsHex : Obligations.UnhexInvertsHex := by
  refine fun c bytes => ⟨hexText_length c bytes, unhexText_hexText c bytes, fun j hj => ?_⟩
  have hb := bytes[j].isLt
  rw [List.getD_eq_getElem _ _ hj, hexDigits_getElem? c (by omega), hexDigits_getElem? c (by omega)]
  have hhigh := hexText_getElem? c bytes j (t := 0) (by omega)
  have hlow := hexText_getElem? c bytes j (t := 1) (by omega)
  rw [List.getElem?_eq_getElem hj] at hhigh hlow
  exact ⟨hhigh, hlow⟩

end Sys2Proof.Proofs
end

section
/-! Messages as blocks and back (46_facade_pseudo_ops.md rules R203, R204 and R206): the zero padding of the last block, and the blocks of a padded message. -/

namespace Sys2Proof.Proofs

open Sys2Proof Sys2Proof.Machine

/-- The field of a list's first 8 bytes holds the list's bytes. -/
theorem byteAt_be64_take (bytes : List Byte) {j : Nat} (hj : j < 8) :
    byteAt (be64 (bytes.take 8)) j = bytes.getD j 0 := by
  rw [byteAt_be64 _ hj, List.getD_eq_getElem?_getD, List.getElem?_take_of_lt hj, ← List.getD_eq_getElem?_getD]

theorem length_decodeBits (blocks : List Block) : (decodeBits blocks).length = 8 * blocks.length :=
  length_flatMap_of_groups bytes8_length blocks

/-- Past the message's last byte its blocks are zero. -/
theorem byteAt_messageBlock (m : List Byte) (k : Nat) {j : Nat} (hj : j < 8) :
    byteAt (messageBlock m k) j = m.getD (8 * k + j) 0 := by
  rw [messageBlock, byteAt_be64_take _ hj, List.getD_eq_getElem?_getD, List.getElem?_drop, ← List.getD_eq_getElem?_getD]

/-- The bytes an encryption forces to zero are zero in the message's blocks. -/
theorem keep_messageBlock (m : List Byte) (k : Nat) :
    keep (messageBlock m k) (min (m.length - 8 * k) 8) = messageBlock m k := by
  refine block_eq_of_byteAt_eq fun j hj => ?_
  rw [byteAt_keep _ (Nat.min_le_right _ _) hj, byteAt_messageBlock _ _ hj]
  split_ifs with hbyte
  · rfl
  · exact (List.getD_eq_default _ _ (by omega)).symm

/-- The padding is in the blocks already. -/
theorem messageBlock_append_zeros (m : List Byte) (p k : Nat) :
    messageBlock (m ++ List.replicate p 0) k = messageBlock m k := by
  refine block_eq_of_byteAt_eq fun j hj => ?_
  rw [byteAt_messageBlock _ _ hj, byteAt_messageBlock _ _ hj]
  by_cases hbyte : 8 * k + j < m.length
  · rw [List.getD_append _ _ _ _ hbyte]
  · have hge : m.length ≤ 8 * k + j := Nat.le_of_not_lt hbyte
    rw [List.getD_append_right _ _ _ _ hge, List.getD_eq_default m _ hge, List.getD_eq_getElem?_getD,
      List.getElem?_getD_replicate_default_eq]

/-- The blocks of a message are the message and its padding (R206). -/
theorem decodeBits_messageBlocks_padded (m : List Byte) :
    decodeBits ((List.range ((m.length + 7) / 8)).map (messageBlock m)) =
      m ++ List.replicate ((8 - m.length % 8) % 8) 0 := by
  have hlength : (m ++ List.replicate ((8 - m.length % 8) % 8) 0).length = 8 * ((m.length + 7) / 8) := by
    rw [List.length_append, List.length_replicate]
    omega
  rw [← decodeBits_messageBlocks hlength, funext (messageBlock_append_zeros m _)]

/-- The host cuts a message of whole blocks into these blocks again. -/
theorem messageBlocks_decodeBits (blocks : List Block) :
    (List.range blocks.length).map (messageBlock (decodeBits blocks)) = blocks := by
  induction blocks with
  | nil => rfl
  | cons v blocks ih =>
    have hbytes : decodeBits (v :: blocks) = bytes8 v ++ decodeBits blocks := List.flatMap_cons
    have hfirst : messageBlock (decodeBits (v :: blocks)) 0 = v := by
      rw [messageBlock, hbytes, Nat.mul_zero, List.drop_zero, List.take_left' (bytes8_length v), be64_bytes8]
    have hrest : messageBlock (decodeBits (v :: blocks)) ∘ Nat.succ = messageBlock (decodeBits blocks) := by
      funext k
      rw [Function.comp_apply, Nat.succ_eq_add_one, messageBlock_succ, hbytes, List.drop_left' (bytes8_length v)]
    rw [List.length_cons, List.range_succ_eq_map, List.map_cons, List.map_map, hfirst, hrest, ih]

end Sys2Proof.Proofs
end

section
/-! The host's pseudo-operations (46_facade_pseudo_ops.md rules R200 to R206): one command answered or refused, `SETKEY` and `SETIV`, and where nothing is issued. -/

namespace Sys2Proof.Proofs

open Sys2Proof Sys2Proof.Machine Sys2Proof.Claims

variable {s t : State} {i : Instr} {e : Exc} {w : Cmd} {ws : List Cmd} {m key iv : List Byte} {mode : BitVec 8} {n : Nat}

/-! ## One command of a sequence (R200) -/

/-- A command answered with `OK` gives no data, so what the sequence gives is what the rest of it gives. -/
theorem issueAll_cons_of_okResp (h : executeWord w s = .next t) (hr : t.resp = okResp) :
    issueAll (w :: ws) s = issueAll ws t := by
  have hissue : issue w s = some (t, mkResp rcodeOk 0) := issue_of_executeWord h hr
  rw [issueAll, hissue]
  simp only [respRcode_mkResp, respBlocks_ok, List.nil_append]
  rw [if_neg (by decide)]
  split <;> simp [*]

/-- A refused command stops the sequence with its error's code. -/
theorem issueAll_encode_cons_refused (hwf : i.wellFormed = true) (h : refusal i s = some e) :
    issueAll (encode i :: ws) s = (refusedState e s, .error (errorRcode e)) := by
  have hexec : executeWord (encode i) s = .next (s.raise e) :=
    (executeWord_of_decode (decode_encode hwf) s).trans (exec_of_refusal_some h)
  have hissue : issue (encode i) s = some (s.raise e, mkResp (rcodeError e) 0) := issue_of_executeWord hexec rfl
  rw [issueAll_cons_error hissue (by simpa using rcodeError_ge e), respRcode_mkResp, rcodeError_eq_errorRcode,
    raise_eq_refusedState]

/-! ## `SETKEY` (R201) -/

/-- `SETKEY` of a key with at least one byte, in `IDLE`. -/
theorem executeWord_setKeyCmd (hidle : s.seq = .idle) (hkey : key ≠ []) :
    executeWord (setKeyCmd key) s = .next (s.loadKey (normKey key)).respondOk := by
  have hn : (BitVec.ofNat 8 (min key.length Config.maxKeyLen)).toNat = min key.length 255 :=
    Nat.mod_eq_of_lt (by simp only [Config.maxKeyLen]; omega)
  have hpayload : ∀ j < min key.length 8, byteAt (be64 (key.take Config.blockBytes)) j = key.getD j 0 :=
    fun j hj => byteAt_be64_take key (by omega)
  rw [setKeyCmd, executeWord_of_decode (decode_encode rfl), exec_ldkey_eq_normKey hidle hkey hn hpayload]
  rfl

/-- `SETKEY` of the empty key is `LDKEY` with the length 0. -/
theorem setKeyCmd_nil : setKeyCmd [] = encode (.ldkey 0 (be64 [])) := rfl

theorem refusal_ldkey_empty (hidle : s.seq = .idle) (payload : Block) :
    refusal (.ldkey 0 payload) s = some .invalidKeyMaterial := by
  simp [refusal, hidle]

/-- Settles O51: the word field by field, the refusal by its check and the load as the normalised key. -/
theorem setkeyLoadsTheNormalisedKey : Obligations.SetkeyLoadsTheNormalisedKey := by
  intro s key hidle
  constructor
  · have htake : key.take (min key.length 8) = key.take 8 := by
      rw [Nat.min_comm, ← List.take_take, List.take_length]
    rw [htake]
    rfl
  · rw [step_present_command]
    split_ifs with hkey
    · rw [hkey, setKeyCmd_nil, executeWord_of_decode (decode_encode rfl),
        exec_eq_refusedState (refusal_ldkey_empty hidle _)]
    · exact executeWord_setKeyCmd hidle hkey

/-! ## `SETIV` (R202) -/

theorem executeWord_encode_ldiv_idle (hidle : s.seq = .idle) (v : Block) :
    executeWord (encode (.ldiv v)) s = .next (s.loadIv v).respondOk :=
  (executeWord_of_decode (decode_encode rfl) s).trans (exec_ldiv_idle hidle v)

theorem setIvOp_of_length (hiv : iv.length = 8) (s : State) : setIvOp iv s = issueAll [encode (.ldiv (be64 iv))] s := by
  rw [setIvOp, setIvCmd_of_length hiv, Option.map_some, issueDefined_some]

/-- Settles O56: the expansion by the length, and the one command it issues by its check. -/
theorem setivLoadsAnIvOfEightBytes : Obligations.SetivLoadsAnIvOfEightBytes := by
  refine ⟨fun iv w => ?_, fun iv s hiv => ⟨fun hidle => ?_, fun hopen => ?_⟩⟩
  · rw [setIvCmd, Option.ite_none_right_eq_some, Option.some_inj, eq_comm (b := w)]
    rfl
  · rw [setIvOp_of_length hiv, issueAll_cons_of_okResp (executeWord_encode_ldiv_idle hidle _) rfl]
    rfl
  · rw [setIvOp_of_length hiv]
    exact issueAll_encode_cons_refused (i := .ldiv (be64 iv)) rfl (if_pos hopen)

/-! ## `ENCRYPT` and `DECRYPT` (R203 to R205) -/

/-- The engine once `SETKEY` and `SETIV` have been answered. -/
def withKeyAndIv (key iv : List Byte) (s : State) : State := ((s.loadKey (normKey key)).loadIv (be64 iv)).respondOk

theorem issueAll_setKey_setIv (hidle : s.seq = .idle) (hkey : key ≠ []) (iv : List Byte) :
    issueAll (setKeyCmd key :: encode (.ldiv (be64 iv)) :: ws) s = issueAll ws (withKeyAndIv key iv s) := by
  have hidle' : (s.loadKey (normKey key)).respondOk.seq = .idle := hidle
  rw [issueAll_cons_of_okResp (executeWord_setKeyCmd hidle hkey) rfl,
    issueAll_cons_of_okResp (executeWord_encode_ldiv_idle hidle' _) rfl]
  rfl

/-- A defined message operation gives what its commands give, as bytes. -/
theorem messageOp_of_issueAll {res : HostResult (List Block)} (hiv : iv.length = 8) (hm : m.length < 2 ^ 64)
    (h : issueAll (setKeyCmd key :: encode (.ldiv (be64 iv)) :: messageCmds mode m n) s = (t, res)) :
    messageOp mode m key iv n s = (t, res.toBytes) := by
  rw [messageOp, messageExpansion_eq_some hiv hm, issueDefined_some, h]

/-- An undefined message operation issues nothing. -/
theorem messageOp_notDefined (h : iv.length ≠ 8 ∨ 2 ^ 64 ≤ m.length) : messageOp mode m key iv n s = (s, .notDefined) := by
  rw [messageOp, messageExpansion_eq_none h]
  rfl

/-- Settles O57: with another length of the IV, or a message too long, there is no expansion to issue. -/
theorem undefinedPseudoOperationsIssueNothing : Obligations.UndefinedPseudoOperationsIssueNothing := by
  refine ⟨fun iv s hiv => ?_, fun m key iv s h => ⟨messageOp_notDefined h, messageOp_notDefined h⟩⟩
  rw [setIvOp, setIvCmd_eq_none hiv, Option.map_none, issueDefined_none]

/-- With the empty key the first command is refused, and it is the only one issued. -/
theorem messageOp_emptyKey (hidle : s.seq = .idle) (hiv : iv.length = 8) (hm : m.length < 2 ^ 64) :
    messageOp mode m [] iv n s = (refusedState .invalidKeyMaterial s, .error 0x83) :=
  messageOp_of_issueAll hiv hm (setKeyCmd_nil ▸ issueAll_encode_cons_refused rfl (refusal_ldkey_empty hidle _))

/-- Settles O54: both operations are messages whose first command is `SETKEY`. -/
theorem emptyKeyStopsThePseudoOperations : Obligations.EmptyKeyStopsThePseudoOperations :=
  fun _ _ _ hidle hiv hm => ⟨messageOp_emptyKey hidle hiv hm, messageOp_emptyKey hidle hiv hm⟩

theorem refusal_start_malformed {len : BitVec 64} (hidle : s.seq = .idle) (hk : s.kvalid = true) (hiv : s.ivvalid = true)
    (hlen : len.toNat % 8 ≠ 0) : refusal (.start 1 len) s = some .malformedCiphertextLength := by
  rw [refusal_start (by decide)]
  simp [hidle, hk, hiv, hlen]

/-- Settles O53: the key and the IV are loaded, and `START` is refused by the check of the length. -/
theorem decryptRefusesAMalformedLength : Obligations.DecryptRefusesAMalformedLength := by
  intro c key iv s hidle hkey hiv hc hmod
  have hlen : (BitVec.ofNat 64 c.length).toNat % 8 ≠ 0 := by rwa [BitVec.toNat_ofNat, Nat.mod_eq_of_lt hc]
  have hstart : issueAll (messageCmds 1 c (c.length / 8)) (withKeyAndIv key iv s) =
      (refusedState .malformedCiphertextLength (withKeyAndIv key iv s), .error 0x85) :=
    issueAll_encode_cons_refused (wellFormed_start.mpr (by decide)) (refusal_start_malformed hidle rfl rfl hlen)
  exact ⟨_, messageOp_of_issueAll hiv hc ((issueAll_setKey_setIv hidle hkey iv).trans hstart), rfl, hidle, rfl, rfl, rfl,
    rfl, rfl⟩

end Sys2Proof.Proofs
end

section
/-! `DECRYPT` after `ENCRYPT` (46_facade_pseudo_ops.md sections 1 and 2): both as one chain from the same key and IV. -/

namespace Sys2Proof.Proofs

open Sys2Proof Sys2Proof.Machine Sys2Proof.Claims

variable {rk : RoundKeys} {iv₀ : Block} {n : Nat} {P P' C : Nat → Block} {s : State} {m key iv : List Byte} {mode : BitVec 8}

/-- One ciphertext has one plaintext. -/
theorem encryptsChain_plain_unique (h : EncryptsChain rk iv₀ n P C) (h' : EncryptsChain rk iv₀ n P' C) :
    ∀ k < n, P k = P' k := by
  intro k hk
  rw [encryptsChain_iff_blockDec.mp h k hk, encryptsChain_iff_blockDec.mp h' k hk]

/-- The plaintext blocks of an encryption are the message's blocks as the host presents them. -/
theorem plainBlocks_messageBlocks (m : List Byte) (out : List Block) {k : Nat} (hk : k < n) :
    plainBlocks 0#8 m.length ((List.range n).map (messageBlock m)) out k = messageBlock m k := by
  have hblock : ((List.range n).map (messageBlock m)).getD k 0 = messageBlock m k := by simp [hk]
  rw [plainBlocks, if_pos rfl, hblock, keep_messageBlock]

/-- A defined message under a non-empty key, in either mode: a whole chain from the key and the IV given, and an idle engine. -/
theorem messageOp_chain (hmode : mode ≤ 1#8) (hidle : s.seq = .idle) (hkey : key ≠ []) (hiv : iv.length = 8)
    (hm : m.length < 2 ^ 64) (hmod : mode = 1#8 → m.length % 8 = 0) (hn : n = (m.length + 7) / 8) :
    ∃ t out, messageOp mode m key iv n s = (t, .ok (decodeBits out)) ∧ out.length = n ∧ t.seq = .idle ∧
      EncryptsChain (subkey (normKey key)) (be64 iv) n
        (plainBlocks mode m.length ((List.range n).map (messageBlock m)) out)
        (cipherBlocks mode ((List.range n).map (messageBlock m)) out) := by
  have hlen : (BitVec.ofNat 64 m.length).toNat = m.length := Nat.mod_eq_of_lt hm
  have hblocks : ((List.range n).map (messageBlock m)).length = n := by simp
  obtain ⟨t, out, hissue, hlength, hend, -, hchain⟩ :=
    issueAll_message (s := withKeyAndIv key iv s) (mode := mode) (len := BitVec.ofNat 64 m.length) hmode hidle rfl rfl
      (by rwa [hlen]) (by rw [hblocks, hlen, hn])
  rw [List.map_map] at hissue
  rw [hblocks, hlen] at hchain
  exact ⟨t, out, messageOp_of_issueAll hiv hm ((issueAll_setKey_setIv hidle hkey iv).trans hissue),
    hlength.trans hblocks, hend, hchain⟩

/-- Settles O52: the two messages are chains with the same ciphertext, so with the same plaintext, which is the padded message. -/
theorem decryptOfEncryptIsThePaddedMessage : Obligations.DecryptOfEncryptIsThePaddedMessage := by
  intro m key iv s hidle hkey hiv hm
  obtain ⟨t, Cs, henc, hCs, hidle', hchain⟩ := messageOp_chain (mode := 0#8) (m := m) (by decide) hidle hkey hiv
    (by omega) (fun h => absurd h (by decide)) rfl
  have hc : (decodeBits Cs).length = 8 * ((m.length + 7) / 8) := by rw [length_decodeBits, hCs]
  have hn : (decodeBits Cs).length / 8 = (m.length + 7) / 8 := by omega
  obtain ⟨u, Ps, hdec, hPs, -, hchain'⟩ := messageOp_chain (mode := 1#8) (m := decodeBits Cs) (by decide) hidle' hkey hiv
    (by omega) (fun _ => by omega) (n := (decodeBits Cs).length / 8) (by omega)
  rw [hn, ← hCs, messageBlocks_decodeBits, hCs] at hchain'
  have hplain : Ps = (List.range ((m.length + 7) / 8)).map (messageBlock m) := by
    refine List.ext_getElem (by simp [hPs, hn]) fun k hk hk' => ?_
    have hkn : k < (m.length + 7) / 8 := by simpa using hk'
    have hblock : messageBlock m k = Ps.getD k 0 :=
      (plainBlocks_messageBlocks m Cs hkn).symm.trans (encryptsChain_plain_unique hchain hchain' k hkn)
    rw [List.getElem_map, List.getElem_range, hblock, List.getD_eq_getElem]
  refine ⟨_, t, u, henc, hc, hdec.trans ?_⟩
  rw [hplain, decodeBits_messageBlocks_padded]

end Sys2Proof.Proofs
end

section
/-! Exceptions (60_exceptions.md section 3, rule R225): what a refused word leaves, and that the next word sees nothing of it but `ERR`. -/

namespace Sys2Proof.Proofs

open Sys2Proof Sys2Proof.Machine Sys2Proof.Claims

variable {s t u : State} {i : Instr} {w : Cmd} {e : Exc}

/-! ## What a refused word leaves -/

/-- Settles O9: an answer at or above 0x80 is no success, and every other answer is a refusal. -/
theorem refusedCommandChangesOnlyErr : Obligations.RefusedCommandChangesOnlyErr := by
  intro w s t r hstep hresp hcode
  have hns : ¬ succeeded t := fun hs => not_error_of_succeeded hs hresp hcode
  obtain ⟨e, rfl⟩ := eq_raise_of_not_succeeded hstep hns
  exact ⟨e, raise_eq_refusedState e s⟩

/-! ## What the next word sees of it (R172)

Two states are compared with `ERR` cleared in both. -/

/-- The checks look at neither `ERR` nor the response port. -/
theorem refusal_raise (i : Instr) (e : Exc) (s : State) : refusal i (s.raise e) = refusal i s :=
  (refusal_congr fun _ _ hr => sameReg_raise s e (by rintro rfl; simp at hr)).symm

/-- `RDSTAT` alone returns `ERR`, and every command overwrites the response port. -/
theorem effect_raise_clearErr (h : i ≠ .rdstat) (e : Exc) (s : State) :
    (effect i (s.raise e)).clearErr = (effect i s).clearErr := by
  cases i with
  | rdstat => exact absurd rfl h
  | blk data =>
    by_cases hq : s.seq = .enc
    · rw [effect, effect, if_pos hq, if_pos ((State.raise_seq s e).trans hq)]
      rfl
    · rw [effect, effect, if_neg hq, if_neg ((State.raise_seq s e).trans_ne hq)]
      rfl
  | _ => rfl

/-- The two executions fail the same check, or both have the command's effect. -/
theorem exec_raise_clearErr (h : i ≠ .rdstat) (ht : exec i (s.raise e) = .next t) (hu : exec i s = .next u) :
    t.clearErr = u.clearErr := by
  rw [exec_eq, refusal_raise] at ht
  rw [exec_eq] at hu
  cases ht
  cases hu
  cases refusal i s with
  | some x => rfl
  | none => exact effect_raise_clearErr h e s

theorem executeWord_raise_clearErr (h : decode w ≠ .command .rdstat) (ht : executeWord w (s.raise e) = .next t)
    (hu : executeWord w s = .next u) : t.clearErr = u.clearErr := by
  cases hd : decode w with
  | command i =>
    rw [executeWord_of_decode hd] at ht hu
    exact exec_raise_clearErr (fun hi => h (hi ▸ hd)) ht hu
  | illegal d =>
    rw [executeWord_of_illegal hd] at ht hu
    cases ht
    cases hu
    rfl

/-- Settles O10: the two next states agree once `ERR` is cleared, and the response port is not touched by clearing it. -/
theorem refusedCommandIsInvisibleToTheNext : Obligations.RefusedCommandIsInvisibleToTheNext := by
  rintro w1 w2 s s1 t1 t2 e - rfl hne ht1 ht2
  rw [← raise_eq_refusedState, step_present_command] at ht1
  have hsame : t1.clearErr = t2.clearErr := executeWord_raise_clearErr hne ht1 ht2
  exact ⟨by simpa using congrArg State.resp hsame, hsame⟩

end Sys2Proof.Proofs
end

section
/-! Hazards (70_reset_and_hazards.md sections 3 to 5, rules R265, R268 and R270): `KEY` and `IV` in an open message, and where no step happens. -/

namespace Sys2Proof.Proofs

open Sys2Proof Sys2Proof.Machine Sys2Proof.Claims

/-- Settles O27: `KEY` and `IV` change in `IDLE` alone, by a loading command, and the loading commands check `STATE`. -/
theorem keyAndIvAreFrozenWhileAMessageIsOpen : Obligations.KeyAndIvAreFrozenWhileAMessageIsOpen := by
  intro s hopen
  refine ⟨fun w t hstep => ?_, fun n key => ?_, fun iv => ?_⟩
  · obtain ⟨hkey, hiv, -⟩ := dataRegistersChangeOnlyByTheirCommands w s t hstep
    exact ⟨not_not.mp fun hne => hopen (hkey hne).1, not_not.mp fun hne => hopen (hiv hne).1⟩
  · rw [afterWord_ldkey]
    exact exec_eq_refusedState (by simp [refusal, hopen])
  · obtain ⟨hword, hrefused, -⟩ := ldivLoadsTheIvInIdle
    exact (hword 0 iv s).trans (hrefused iv s hopen)

/-- Settles O6: an empty port stops by `noCommand`, and any move at its head has a next state. -/
theorem onlyAnEmptyPortStops : Obligations.OnlyAnEmptyPortStops := by
  intro s
  refine ⟨step_of_script_nil, fun hne => ?_⟩
  obtain ⟨ev, rest, hscript⟩ := List.exists_cons_of_ne_nil hne
  exact step_next_of_script_cons hscript

end Sys2Proof.Proofs
end

section
/-! The words the spec writes out (30_encoding.md rule R77, 44_cbc_commands.md rules R162 to R168, 95_test_vectors.md V6.2). -/

namespace Sys2Proof.Proofs

/-- Settles O1, by running the decoder on each of the fifteen words. -/
theorem specWordsDecodeAsTheSpecReadsThem : Obligations.SpecWordsDecodeAsTheSpecReadsThem := by
  unfold Obligations.SpecWordsDecodeAsTheSpecReadsThem
  decide

end Sys2Proof.Proofs
end
